-- ==== Sys2Proof/Word.lean ====
section
/-! DEFINITION. The widths of chip8_interpreter's values (00_scope.md R7): bytes, words, 12-bit addresses and the
4-bit fields of an instruction. -/

namespace Sys2Proof

/-- An 8-bit value: a general register, a timer, a memory byte (R20, R31, R36). -/
abbrev Byte := BitVec 8

/-- A 16-bit value: an instruction word, `I`, `pc`, a stack slot, `fault_pc` (R24, R27, R28, R38, R80). -/
abbrev Word := BitVec 16

/-- The 12-bit address operand `nnn` and the host port's addresses (R60, R81). -/
abbrev Addr := BitVec 12

/-- A 4-bit instruction field (R81). -/
abbrev Nibble := BitVec 4

/-- The index of a general register: a 4-bit instruction field, so never outside 0 to 15 (R20, R84). -/
abbrev RegIdx := BitVec 4

/-- The index of VF, the flag register (R11, R21). -/
abbrev VF : RegIdx := 0xF#4

end Sys2Proof
end

