-- ==== Sys2Proof/Config.lean ====
section
/-! DEFINITION. What the spec leaves to the implementation: the two parameters of 00_scope.md R8, and the free random
byte of 42_alu.md R152. The values this hardware takes for the parameters stand in Machine/Hardware.lean. -/

namespace Sys2Proof

/-- The font: glyph `g` is row `g`, its five bytes in address order, top row first (10_state.md R36). -/
abbrev Font := Vector (Vector Byte 5) 16

/-- The configuration parameters of 00_scope.md R8, which a model takes as an argument. -/
structure Config where
  /-- `FONT`: the 80 bytes reset preloads at addresses 0 to 79. -/
  font : Font
  /-- `TIMER_DECAY`: whether a tick decrements the nonzero timers (45_keypad_timers.md R219). -/
  timerDecay : Bool
  deriving DecidableEq, Repr

/-- The free random bytes: the byte the `n`-th unnamed draw reads. It has no body, so nothing can be proved about its
values or about how two of them are related: "a model must admit every 8-bit value, under no law between steps"
(42_alu.md R152, 93_implementation_defined.md U5). DESIGN CHOICE, log 1, safe. -/
opaque Config.freeRnd : Nat → Byte

end Sys2Proof
end

