-- ==== Sys2Proof/Machine/Hardware.lean ====
section
/-! DEFINITION. The values this hardware takes: its parameters (00_scope.md R8), the reset vector (70_reset_and_hazards.md
R261) and what each byte of memory holds at reset (10_state.md R36, R41). -/

namespace Sys2Proof

/-- The default font, one glyph a row (10_state.md R36). PRESUMED: the spec marks its bytes as general knowledge, and
`FONT` is a parameter; log 3, unsafe for a claim that reads a glyph. -/
def standardFont : Font := #v[
  #v[0xF0, 0x90, 0x90, 0x90, 0xF0], #v[0x20, 0x60, 0x20, 0x20, 0x70],
  #v[0xF0, 0x10, 0xF0, 0x80, 0xF0], #v[0xF0, 0x10, 0xF0, 0x10, 0xF0],
  #v[0x90, 0x90, 0xF0, 0x10, 0x10], #v[0xF0, 0x80, 0xF0, 0x10, 0xF0],
  #v[0xF0, 0x80, 0xF0, 0x90, 0xF0], #v[0xF0, 0x10, 0x20, 0x40, 0x40],
  #v[0xF0, 0x90, 0xF0, 0x90, 0xF0], #v[0xF0, 0x90, 0xF0, 0x10, 0xF0],
  #v[0xF0, 0x90, 0xF0, 0x90, 0x90], #v[0xE0, 0x90, 0xE0, 0x90, 0xE0],
  #v[0xF0, 0x80, 0x80, 0x80, 0xF0], #v[0xE0, 0x90, 0x90, 0x90, 0xE0],
  #v[0xF0, 0x80, 0xF0, 0x80, 0xF0], #v[0xF0, 0x80, 0xF0, 0x80, 0x80]]

/-- This hardware's parameters: the default font and `TIMER_DECAY = true` (00_scope.md R8). -/
def Config.hardware : Config where
  font := standardFont
  timerDecay := true

/-- Where the first step after reset fetches (70_reset_and_hazards.md R261); also the program load address (R263). -/
def resetVector : Word := 0x200#16

/-- What byte `a` of memory holds at reset, and so what an unlisted address reads as: byte `a` of `FONT` at 0 to 79, glyph
`g` at bytes `5*g` to `5*g+4`, and 0 elsewhere (10_state.md R36, R41). -/
def Config.resetByte (c : Config) (a : Nat) : Byte :=
  if h : a < 80 then c.font[a / 5][a % 5]'(Nat.mod_lt _ (by decide)) else 0x00#8

end Sys2Proof
end

