-- ==== Sys2Proof/Machine/Memory.lean ====
section
/-! DEFINITION. The 4096-byte memory as plain data: the list of the bytes that differ from their reset contents, by rising
address (20_memory.md R50). `bg` is what an unlisted address reads as. -/

namespace Sys2Proof.Machine

/-- The listed bytes, addresses strictly rising, none equal to what its address reads as when unlisted. -/
abbrev Memory := List Host.Cell

/-- The listed byte at an address, if any. -/
def Memory.lookup : Memory → Nat → Option Byte
  | [], _ => none
  | (b, w) :: m, a => if a = b then some w else Memory.lookup m a

/-- The byte at address `a`. -/
def Memory.read (bg : Nat → Byte) (m : Memory) (a : Nat) : Byte := (Memory.lookup m a).getD (bg a)

/-- List `v` at `a`, in address order. -/
def Memory.insert : Memory → Nat → Byte → Memory
  | [], a, v => [(a, v)]
  | (b, w) :: m, a, v =>
    if a < b then (a, v) :: (b, w) :: m else if a = b then (a, v) :: m else (b, w) :: Memory.insert m a v

/-- Unlist the address `a`. -/
def Memory.erase : Memory → Nat → Memory
  | [], _ => []
  | (b, w) :: m, a => if a = b then m else (b, w) :: Memory.erase m a

/-- Set the byte at `a` to `v`; the value an unlisted address reads as is not listed. -/
def Memory.write (bg : Nat → Byte) (m : Memory) (a : Nat) (v : Byte) : Memory :=
  if v = bg a then Memory.erase m a else Memory.insert m a v

/-- Every address of the list lies above `lo` (if there is a `lo`), they rise strictly, and none is 4096 or more. -/
def Memory.rising : Option Nat → Memory → Bool
  | _, [] => true
  | lo, (b, _) :: m => (match lo with | some l => decide (l < b) | none => true) && decide (b < 4096) && Memory.rising (some b) m

/-- The canonical form: addresses strictly rising and below 4096, and no entry equal to what its address reads as
when unlisted. -/
def Memory.wf (bg : Nat → Byte) (m : Memory) : Bool :=
  Memory.rising none m && m.all (fun c => c.2 ≠ bg c.1)

end Sys2Proof.Machine
end

