-- ==== Sys2Proof/Machine/State.lean ====
section
/-! DEFINITION. The state of the block: every piece of state of 10_state.md, the parameters of 00_scope.md R8 and the random
input of 40_cycle.md R100; why a step can stop; and reset (10_state.md R41). -/

namespace Sys2Proof.Machine

/-- The display buffer: row `r` is entry `r`, and column `c` is bit `c` of the row, so that `fb[r][c]` is the spec's
`FB[r][c]` (10_state.md R34, R35; log 13). -/
abbrev FrameBuffer := Vector (BitVec 64) 32

/-- The fault causes of 60_exceptions.md R231 that an instruction can raise. -/
inductive FaultCause where
  /-- `CALL` with `SP = 16`. -/
  | stackOverflow
  /-- `RET` with `SP = 0`. -/
  | stackUnderflow
  deriving DecidableEq, Repr

/-- The state of the block. The first thirteen fields are the state of 10_state.md; the last three are the model's own. -/
structure State where
  /-- `V[0]` to `V[15]` (R20); VF is `V[15]` (R21). -/
  v : Vector Byte 16
  /-- The index register `I` (R27). -/
  i : Word
  /-- The program counter (R24 to R26). -/
  pc : Word
  /-- The stack pointer `SP` (R29). -/
  sp : Byte
  /-- The stack slots `S[0]` to `S[15]` (R28, R30). -/
  stack : Vector Word 16
  /-- The delay timer (R31). -/
  dt : Byte
  /-- The sound timer (R32). -/
  st : Byte
  /-- The keypad flags: bit `k` is `K[k]` (R33). -/
  keys : BitVec 16
  /-- The display buffer `FB` (R34). -/
  fb : FrameBuffer
  /-- The bytes of memory `M` that differ from their reset contents (R36, R37). -/
  mem : Memory
  /-- 1 after a fault (R38). -/
  halted : Bool
  /-- The code of the fault: 0 none, 1 overflow, 2 underflow (R38). -/
  faultCause : BitVec 2
  /-- `pc0` of the faulting instruction (R38). -/
  faultPc : Word
  /-- The parameters `FONT` and `TIMER_DECAY` (00_scope.md R8). No operation writes them. Log 2. -/
  config : Config
  /-- The byte `rnd` the host presents with the current step, when one is named (40_cycle.md R100). Log 1. -/
  rndIn : Option Byte
  /-- How many free random bytes have been drawn. Log 1. -/
  draws : Nat
  deriving DecidableEq, Repr

/-- Why a step stops with a fault. StackOverflow and StackUnderflow of the spec are NOT here: their entry is described, so
they are next states (60_exceptions.md R232). -/
inductive Fault where
  /-- Raised by `CALL` and `RET` in a state whose `SP` is above 16, where the spec's pseudocode would index a stack slot that
  does not exist. "SP values above 16 cannot occur" (41_control_flow.md R123), and no run reaches such a state. Safe; log 4. -/
  | stackPointerOutOfRange
  deriving DecidableEq, Repr

/-- Why an operation is refused. -/
inductive Refusal where
  /-- Raised by the dispatch for an instruction with no meaning yet; no arm answers it in this model. Safe. -/
  | notModelled (mnemonic : String)
  /-- Raised by the host interface, never by a step, when the host presents operations together that it "must not present"
  together (60_exceptions.md R245). Safe; log 8. -/
  | presentedTogether
  /-- Raised by program loading, never by a step, for an image longer than 3584 bytes, which "is refused by the host and
  never loaded" (70_reset_and_hazards.md R263). Safe; log 9. -/
  | imageTooLong
  deriving DecidableEq, Repr

/-- The state of 10_state.md R41 for the parameters `c`. -/
def State.resetWith (c : Config) : State where
  v := Vector.replicate 16 0x00#8
  i := 0x0000#16
  pc := resetVector
  sp := 0x00#8
  stack := Vector.replicate 16 0x0000#16
  dt := 0x00#8
  st := 0x00#8
  keys := 0x0000#16
  fb := Vector.replicate 32 0#64
  mem := []
  halted := false
  faultCause := 0#2
  faultPc := 0x0000#16
  config := c
  rndIn := none
  draws := 0

/-- This hardware right after reset (10_state.md R41). -/
def State.reset : State := State.resetWith Config.hardware

end Sys2Proof.Machine
end

