-- ==== Sys2Proof/Machine/Flags.lean ====
section
/-! DEFINITION. The flag computations of 10_state.md R39, each from the operand values read before any write (42_alu.md
R140 (b)). The collision flag of `DRW` is computed with the drawing (Machine/Display.lean). -/

namespace Sys2Proof.Machine

/-- A flag as the byte VF receives: 1 or 0. -/
def flagByte (f : Bool) : Byte := if f then 0x01#8 else 0x00#8

/-- Carry out of the 8-bit sum, from the sum before truncation (42_alu.md R147). -/
def carryOut (a b : Byte) : Bool := decide (256 ≤ a.toNat + b.toNat)

/-- `a > b`, unsigned and strict (42_alu.md R148, R150; 90_conflicts.md C3). -/
def greater (a b : Byte) : Bool := decide (b.toNat < a.toNat)

/-- Bit 0 before a right shift (42_alu.md R149). -/
def lowBit (a : Byte) : Bool := a.getLsbD 0

/-- Bit 7 before a left shift (42_alu.md R151). -/
def highBit (a : Byte) : Bool := a.getLsbD 7

end Sys2Proof.Machine
end

