-- ==== Sys2Proof/Machine/Operands.lean ====
section
/-! DEFINITION. The operand forms and the values instructions compute from them: zero extension, the memory operand, the
font address, the decimal digits, the key of a register, the pixel of a sprite bit. -/

namespace Sys2Proof.Machine

/-- `zext_16` (00_scope.md R10): how `nnn`, `V[0]` and the addend of `ADD I, Vx` reach 16 bits (30_encoding.md R83). -/
def zext16 {w : Nat} (a : BitVec w) : Word := a.setWidth 16

/-- The memory operand: byte `k` of an access through `base` is at `(base + k) mod 4096` (43_index_memory.md R170,
20_memory.md R54). The sum is on unbounded integers (00_scope.md R10). -/
def dataAddr (base : Word) (k : Nat) : Nat := (base.toNat + k) % 4096

/-- The address of the glyph of the low nibble of a byte: `zext_16(v[3:0]) * 5` (43_index_memory.md R173). -/
def glyphAddr (a : Byte) : Word := zext16 (a.extractLsb' 0 4) * 5#16

/-- `v div 100`, the hundreds digit of `LD B, Vx` (43_index_memory.md R174). -/
def hundreds (a : Byte) : Byte := BitVec.ofNat 8 (a.toNat / 100)

/-- `(v div 10) mod 10`, the tens digit of `LD B, Vx` (43_index_memory.md R174). -/
def tens (a : Byte) : Byte := BitVec.ofNat 8 (a.toNat / 10 % 10)

/-- `v mod 10`, the ones digit of `LD B, Vx` (43_index_memory.md R174). -/
def ones (a : Byte) : Byte := BitVec.ofNat 8 (a.toNat % 10)

/-- `Pressed(v) = (v <= 15) and K[v] = 1` (45_keypad_timers.md R210). -/
def pressed (keys : BitVec 16) (a : Byte) : Bool := decide (a.toNat ≤ 15) && keys.getLsbD a.toNat

/-- The least `k` with `K[k] = 1`, if a key is pressed (45_keypad_timers.md R216). -/
def lowestKey (keys : BitVec 16) : Option Nat := (List.range 16).find? (fun k => keys.getLsbD k)

/-- The row of sprite row `row` drawn at `cy`: `(cy + row) mod 32` (44_display.md R190 (d)). -/
def pixelRow (cy : Byte) (row : Nat) : Fin 32 := Fin.ofNat 32 (cy.toNat + row)

/-- The column of sprite column `col` drawn at `cx`: `(cx + col) mod 64` (44_display.md R190 (d)). -/
def pixelCol (cx : Byte) (col : Nat) : Fin 64 := Fin.ofNat 64 (cx.toNat + col)

/-- The bit of a sprite byte at column offset `col`, 0 to 7: `b[7 - col]`, bit 7 the leftmost (44_display.md R190 (c)). -/
def spriteBit (b : Byte) (col : Nat) : Bool := b.getLsbD (7 - col)

end Sys2Proof.Machine
end

