-- ==== Sys2Proof/Machine/Ops.lean ====
section
/-! DEFINITION. The named operations over registers and memory that the meanings share, taking a fault, and reset. -/

namespace Sys2Proof.Machine

/-- What executing an instruction or an operation answers. -/
abbrev Result := Host.Outcome State Fault Refusal

/-! ### Registers -/

/-- `V[x]` (00_scope.md R11). -/
def readReg (s : State) (x : RegIdx) : Byte := s.v[x.toNat]'x.isLt

/-- `V[x] <- a` (00_scope.md R11). No register is hardwired (10_state.md R20). -/
def writeReg (s : State) (x : RegIdx) (a : Byte) : State := { s with v := s.v.set x.toNat a x.isLt }

/-- `V[x] <- a` and then `VF <- f`: the flag is written last, so with `x = 15` VF ends as the flag (42_alu.md R140 (c)). -/
def writeRegFlag (s : State) (x : RegIdx) (a : Byte) (f : Bool) : State := writeReg (writeReg s x a) VF (flagByte f)

/-- `I <- a`. -/
def setIndex (s : State) (a : Word) : State := { s with i := a }

/-- `DT <- a`. -/
def setDT (s : State) (a : Byte) : State := { s with dt := a }

/-- `ST <- a`. -/
def setST (s : State) (a : Byte) : State := { s with st := a }

/-- `K <- k`, all sixteen flags at once (60_exceptions.md R246). -/
def setKeypad (s : State) (k : BitVec 16) : State := { s with keys := k }

/-- The display buffer replaced. -/
def setFB (s : State) (fb : FrameBuffer) : State := { s with fb := fb }

/-! ### The program counter -/

/-- `pc <- target`; a target is never checked (10_state.md R25). -/
def jump (s : State) (target : Word) : State := { s with pc := target }

/-- The fetch's advance, `pc <- (pc0 + 2) mod 65536` (40_cycle.md R102). -/
def advance (s : State) : State := jump s (s.pc + 2#16)

/-- The address the executing instruction was fetched from, after the fetch's advance (00_scope.md R14). -/
def pc0 (s : State) : Word := s.pc - 2#16

/-- Skip the next word when `cond` holds: `pc <- (pc + 2) mod 65536` (41_control_flow.md R120). -/
def skipIf (s : State) (cond : Bool) : State := if cond then jump s (s.pc + 2#16) else s

/-- Rewind to the executing instruction: `pc <- pc0`, `pc = (pc - 2) mod 65536` (45_keypad_timers.md R216). -/
def rewind (s : State) : State := jump s (pc0 s)

/-! ### The stack -/

/-- `S[j]` (10_state.md R28). -/
def readSlot (s : State) (j : Fin 16) : Word := s.stack[j]

/-- `S[j] <- a` and `SP <- n`, the two writes of a push (10_state.md R29). -/
def pushSlot (s : State) (j : Fin 16) (a : Word) (n : Byte) : State := { s with stack := s.stack.set j a, sp := n }

/-- `SP <- n`; the popped slot keeps its value (10_state.md R30). -/
def setSP (s : State) (n : Byte) : State := { s with sp := n }

/-! ### Memory -/

/-- `MemRead(addr, 1)`: the byte at `addr mod 4096` (00_scope.md R12). -/
def memRead (s : State) (addr : Nat) : Byte := Memory.read s.config.resetByte s.mem (addr % 4096)

/-- `MemWrite(addr, 1, a)`: the byte at `addr mod 4096` (00_scope.md R12). Every byte is writable (10_state.md R37). -/
def memWrite (s : State) (addr : Nat) (a : Byte) : State :=
  { s with mem := Memory.write s.config.resetByte s.mem (addr % 4096) a }

/-- `for k in 0 .. n-1: MemWrite(I + k, 1, V[k])` (43_index_memory.md R175). -/
def storeV (s : State) : Nat → State
  | 0 => s
  | k + 1 => memWrite (storeV s k) (dataAddr s.i k) (readReg s (BitVec.ofNat 4 k))

/-- `for k in 0 .. n-1: V[k] <- MemRead(I + k, 1)` (43_index_memory.md R176). -/
def loadV (s : State) : Nat → State
  | 0 => s
  | k + 1 => writeReg (loadV s k) (BitVec.ofNat 4 k) (memRead s (dataAddr s.i k))

/-! ### The random input -/

/-- The byte `rnd` of this step: the one the host presents, or else the next free byte (40_cycle.md R100; log 1). -/
def rndByte (s : State) : Byte :=
  match s.rndIn with
  | some r => r
  | none => Config.freeRnd s.draws

/-- The random input after `rnd` is read: a presented byte is used once, a free byte is never drawn again (log 1). -/
def consumeRnd (s : State) : State :=
  match s.rndIn with
  | some _ => { s with rndIn := none }
  | none => { s with draws := s.draws + 1 }

/-! ### Faults and reset -/

/-- The code of a cause in `fault_cause` (60_exceptions.md R231). -/
def FaultCause.code : FaultCause → BitVec 2
  | .stackOverflow => 1#2
  | .stackUnderflow => 2#2

/-- Fault entry (60_exceptions.md R232): the fetch's advance is undone, then `halted <- 1`, `fault_cause <- cause`,
`fault_pc <- pc0`; nothing else changes. An instruction raises it before any write of its own. The state after it is a
next state: control passes to no handler. -/
def raiseFault (cause : FaultCause) (s : State) : State :=
  { rewind s with halted := true, faultCause := cause.code, faultPc := pc0 s }

/-- `Reset()` (70_reset_and_hazards.md R260), the only way out of a fault (60_exceptions.md R233): there is no
return-from-fault instruction. The parameters stay, and the count of free random bytes goes on, so that a reset brings no
byte back (logs 1, 2). -/
def reinitialise (s : State) : State := { State.resetWith s.config with draws := s.draws }

end Sys2Proof.Machine
end

