-- ==== Sys2Proof/Machine/Alu.lean ====
section
/-! DEFINITION. Register loads, arithmetic and logic: 42_alu.md R140 to R153. Sums and differences wrap at 8 bits; a flag
comes from the operands before the write and is written last (R140). -/

namespace Sys2Proof.Machine

/-- `LD Vx, kk` (R141). -/
def execLdImm (x : RegIdx) (kk : Byte) (s : State) : Result := .next (writeReg s x kk)

/-- `ADD Vx, kk` (R142): wraps at 8 bits and sets no flag. -/
def execAddImm (x : RegIdx) (kk : Byte) (s : State) : Result := .next (writeReg s x (readReg s x + kk))

/-- `LD Vx, Vy` (R143). -/
def execLdReg (x y : RegIdx) (s : State) : Result := .next (writeReg s x (readReg s y))

/-- `OR Vx, Vy` (R144). -/
def execOr (x y : RegIdx) (s : State) : Result := .next (writeReg s x (readReg s x ||| readReg s y))

/-- `AND Vx, Vy` (R145). -/
def execAnd (x y : RegIdx) (s : State) : Result := .next (writeReg s x (readReg s x &&& readReg s y))

/-- `XOR Vx, Vy` (R146). -/
def execXor (x y : RegIdx) (s : State) : Result := .next (writeReg s x (readReg s x ^^^ readReg s y))

/-- `ADD Vx, Vy` (R147): VF is the carry out of the 8-bit sum. -/
def execAddReg (x y : RegIdx) (s : State) : Result :=
  .next (writeRegFlag s x (readReg s x + readReg s y) (carryOut (readReg s x) (readReg s y)))

/-- `SUB Vx, Vy` (R148): VF is `V[x] > V[y]`, strict. -/
def execSub (x y : RegIdx) (s : State) : Result :=
  .next (writeRegFlag s x (readReg s x - readReg s y) (greater (readReg s x) (readReg s y)))

/-- `SHR Vx` (R149): VF is bit 0 before the shift. The `y` field is not read (R140 (d)). -/
def execShr (x : RegIdx) (s : State) : Result := .next (writeRegFlag s x (readReg s x >>> 1) (lowBit (readReg s x)))

/-- `SUBN Vx, Vy` (R150): VF is `V[y] > V[x]`, strict. -/
def execSubn (x y : RegIdx) (s : State) : Result :=
  .next (writeRegFlag s x (readReg s y - readReg s x) (greater (readReg s y) (readReg s x)))

/-- `SHL Vx` (R151): VF is bit 7 before the shift. The `y` field is not read (R140 (d)). -/
def execShl (x : RegIdx) (s : State) : Result := .next (writeRegFlag s x (readReg s x <<< 1) (highBit (readReg s x)))

/-- `RND Vx, kk` (R152): `V[x] <- rnd AND kk`, with `rnd` the step's random input. -/
def execRnd (x : RegIdx) (kk : Byte) (s : State) : Result := .next (writeReg (consumeRnd s) x (rndByte s &&& kk))

end Sys2Proof.Machine
end

