-- ==== Sys2Proof/Machine/Control.lean ====
section
/-! DEFINITION. Control transfer: 41_control_flow.md R120 to R130. In every meaning `pc` already holds
`(pc0 + 2) mod 65536` (00_scope.md R14). -/

namespace Sys2Proof.Machine

/-- `RET` (R121): a fault when `SP = 0`; else `SP <- SP - 1; pc <- S[SP]`. An `SP` above 16, which cannot occur, names no
slot (log 4). -/
def execRet (s : State) : Result :=
  if s.sp = 0x00#8 then .next (raiseFault .stackUnderflow s)
  else if h : (s.sp - 0x01#8).toNat < 16 then .next (jump (setSP s (s.sp - 0x01#8)) (readSlot s ⟨_, h⟩))
  else .fault .stackPointerOutOfRange

/-- `JP nnn` (R122): `pc <- zext_16(nnn)`. -/
def execJp (nnn : Addr) (s : State) : Result := .next (jump s (zext16 nnn))

/-- `CALL nnn` (R123): a fault when `SP = 16`; else `S[SP] <- pc; SP <- SP + 1; pc <- zext_16(nnn)`. An `SP` above 16,
which cannot occur, names no slot (log 4). -/
def execCall (nnn : Addr) (s : State) : Result :=
  if s.sp = 0x10#8 then .next (raiseFault .stackOverflow s)
  else if h : s.sp.toNat < 16 then .next (jump (pushSlot s ⟨_, h⟩ s.pc (s.sp + 0x01#8)) (zext16 nnn))
  else .fault .stackPointerOutOfRange

/-- `SE Vx, kk` (R124): skip when `V[x] = kk`. -/
def execSeImm (x : RegIdx) (kk : Byte) (s : State) : Result := .next (skipIf s (readReg s x == kk))

/-- `SNE Vx, kk` (R125): skip when `V[x] != kk`. -/
def execSneImm (x : RegIdx) (kk : Byte) (s : State) : Result := .next (skipIf s (readReg s x != kk))

/-- `SE Vx, Vy` (R126): skip when `V[x] = V[y]`. -/
def execSeReg (x y : RegIdx) (s : State) : Result := .next (skipIf s (readReg s x == readReg s y))

/-- `SNE Vx, Vy` (R127): skip when `V[x] != V[y]`. -/
def execSneReg (x y : RegIdx) (s : State) : Result := .next (skipIf s (readReg s x != readReg s y))

/-- `JP V0, nnn` (R128): `pc <- (zext_16(V[0]) + zext_16(nnn)) mod 65536`, whatever the `x` field holds. -/
def execJpV0 (nnn : Addr) (s : State) : Result := .next (jump s (zext16 (readReg s 0x0#4) + zext16 nnn))

end Sys2Proof.Machine
end

