-- ==== Sys2Proof/Machine/Display.lean ====
section
/-! DEFINITION. The framebuffer writer and XOR collision unit: 44_display.md R190 to R194. -/

namespace Sys2Proof.Machine

/-- `FB[r][c]` (10_state.md R34). -/
def pixel (fb : FrameBuffer) (r : Fin 32) (c : Fin 64) : Bool := fb[r][c]

/-- `FB[r][c] <- FB[r][c] XOR 1` (R192). -/
def togglePixel (fb : FrameBuffer) (r : Fin 32) (c : Fin 64) : FrameBuffer := fb.set r (fb[r] ^^^ BitVec.twoPow 64 c)

/-- The body of R192's inner loop, on the display and `hit`: a set sprite bit inverts its pixel, and a pixel that was set
makes a hit. A clear bit leaves its pixel (R190 (e)). -/
def drawBit (b cx cy : Byte) (row col : Nat) (d : FrameBuffer × Bool) : FrameBuffer × Bool :=
  if spriteBit b col then
    (togglePixel d.1 (pixelRow cy row) (pixelCol cx col), d.2 || pixel d.1 (pixelRow cy row) (pixelCol cx col))
  else d

/-- R192's inner loop, `for col in 0 .. n-1`. -/
def drawBits (b cx cy : Byte) (row : Nat) (d : FrameBuffer × Bool) : Nat → FrameBuffer × Bool
  | 0 => d
  | col + 1 => drawBit b cx cy row col (drawBits b cx cy row d col)

/-- R192's outer loop, `for row in 0 .. n-1`: each row is one byte read at `base + row`. -/
def drawSprite (s : State) (cx cy : Byte) (base : Word) : Nat → FrameBuffer × Bool
  | 0 => (s.fb, false)
  | row + 1 => drawBits (memRead s (dataAddr base row)) cx cy row (drawSprite s cx cy base row) 8

/-- `CLS` (R191): all 2048 pixels 0. -/
def execCls (s : State) : Result := .next (setFB s (Vector.replicate 32 0#64))

/-- `DRW Vx, Vy, n` (R192): the operands are read before VF is written, and VF is written last. -/
def execDrw (x y : RegIdx) (n : Nibble) (s : State) : Result :=
  let d := drawSprite s (readReg s x) (readReg s y) s.i n.toNat
  .next (writeReg (setFB s d.1) VF (flagByte d.2))

end Sys2Proof.Machine
end

