-- ==== Sys2Proof/Machine/IndexMemory.lean ====
section
/-! DEFINITION. Index register, loads and stores: 43_index_memory.md R170 to R176. No access advances `I` (R170). -/

namespace Sys2Proof.Machine

/-- `LD I, nnn` (R171). -/
def execLdI (nnn : Addr) (s : State) : Result := .next (setIndex s (zext16 nnn))

/-- `ADD I, Vx` (R172): wraps at 16 bits and sets no flag. -/
def execAddI (x : RegIdx) (s : State) : Result := .next (setIndex s (s.i + zext16 (readReg s x)))

/-- `LD F, Vx` (R173): the glyph of the low nibble of `V[x]`. -/
def execLdF (x : RegIdx) (s : State) : Result := .next (setIndex s (glyphAddr (readReg s x)))

/-- `LD B, Vx` (R174): hundreds, tens and ones at `I`, `I + 1`, `I + 2`. -/
def execLdB (x : RegIdx) (s : State) : Result :=
  .next (memWrite (memWrite (memWrite s (dataAddr s.i 0) (hundreds (readReg s x))) (dataAddr s.i 1) (tens (readReg s x)))
    (dataAddr s.i 2) (ones (readReg s x)))

/-- `LD [I], Vx` (R175): V0 to Vx inclusive, from `I` up. -/
def execStoreRegs (x : RegIdx) (s : State) : Result := .next (storeV s (x.toNat + 1))

/-- `LD Vx, [I]` (R176): V0 to Vx inclusive, from `I` up. -/
def execLoadRegs (x : RegIdx) (s : State) : Result := .next (loadV s (x.toNat + 1))

end Sys2Proof.Machine
end

