-- ==== Sys2Proof/Machine/KeypadTimers.lean ====
section
/-! DEFINITION. Keypad instructions, timer instructions and the timer tick: 45_keypad_timers.md R210 to R221. -/

namespace Sys2Proof.Machine

/-- `SKP Vx` (R211): skip when the key in `V[x]` is pressed; a value of 16 or more is a key not pressed (R210). -/
def execSkp (x : RegIdx) (s : State) : Result := .next (skipIf s (pressed s.keys (readReg s x)))

/-- `SKNP Vx` (R212): skip when the key in `V[x]` is not pressed. -/
def execSknp (x : RegIdx) (s : State) : Result := .next (skipIf s (!pressed s.keys (readReg s x)))

/-- `LD Vx, DT` (R213). -/
def execLdFromDT (x : RegIdx) (s : State) : Result := .next (writeReg s x s.dt)

/-- `LD DT, Vx` (R214). -/
def execLdToDT (x : RegIdx) (s : State) : Result := .next (setDT s (readReg s x))

/-- `LD ST, Vx` (R215). -/
def execLdToST (x : RegIdx) (s : State) : Result := .next (setST s (readReg s x))

/-- `LD Vx, K` (R216): the least pressed key, or `pc <- pc0` so that the next step executes the same word again. -/
def execLdKey (x : RegIdx) (s : State) : Result :=
  match lowestKey s.keys with
  | some k => .next (writeReg s x (BitVec.ofNat 8 k))
  | none => .next (rewind s)

/-- `sound_on = (ST != 0)` (R218). -/
def soundOn (s : State) : Bool := s.st != 0x00#8

/-- One tick of one timer: a timer at 0 stays at 0 (R219). -/
def countDown (t : Byte) : Byte := if t = 0x00#8 then t else t - 0x01#8

/-- `Tick()` (R219): with `TIMER_DECAY`, each nonzero timer goes down by 1; without it, nothing changes. It runs whether or
not the block is halted. -/
def tick (s : State) : State := if s.config.timerDecay then setST (setDT s (countDown s.dt)) (countDown s.st) else s

end Sys2Proof.Machine
end

