-- ==== Sys2Proof/Syntax.lean ====
section
/-! DEFINITION. The instructions of chip8_interpreter: one constructor per row of 30_encoding.md R90, in the table's
order, with the operands its format names (R82), and the names of the ways a decoder can refuse bytes. -/

namespace Sys2Proof

/-- The 34 instructions (30_encoding.md R90). `x` and `y` index general registers, `kk` is an 8-bit immediate, `nnn` a
12-bit address, `n` a 4-bit count (R81). The shifts keep the `y` field that they do not read (R84, log 12). -/
inductive Instr where
  /-- 00E0 `CLS` -/
  | cls
  /-- 00EE `RET` -/
  | ret
  /-- 1nnn `JP nnn` -/
  | jp (nnn : Addr)
  /-- 2nnn `CALL nnn` -/
  | call (nnn : Addr)
  /-- 3xkk `SE Vx, kk` -/
  | seImm (x : RegIdx) (kk : Byte)
  /-- 4xkk `SNE Vx, kk` -/
  | sneImm (x : RegIdx) (kk : Byte)
  /-- 5xy0 `SE Vx, Vy` -/
  | seReg (x y : RegIdx)
  /-- 6xkk `LD Vx, kk` -/
  | ldImm (x : RegIdx) (kk : Byte)
  /-- 7xkk `ADD Vx, kk` -/
  | addImm (x : RegIdx) (kk : Byte)
  /-- 8xy0 `LD Vx, Vy` -/
  | ldReg (x y : RegIdx)
  /-- 8xy1 `OR Vx, Vy` -/
  | orReg (x y : RegIdx)
  /-- 8xy2 `AND Vx, Vy` -/
  | andReg (x y : RegIdx)
  /-- 8xy3 `XOR Vx, Vy` -/
  | xorReg (x y : RegIdx)
  /-- 8xy4 `ADD Vx, Vy` -/
  | addReg (x y : RegIdx)
  /-- 8xy5 `SUB Vx, Vy` -/
  | subReg (x y : RegIdx)
  /-- 8xy6 `SHR Vx`; `y` is decoded but not read -/
  | shr (x y : RegIdx)
  /-- 8xy7 `SUBN Vx, Vy` -/
  | subnReg (x y : RegIdx)
  /-- 8xyE `SHL Vx`; `y` is decoded but not read -/
  | shl (x y : RegIdx)
  /-- 9xy0 `SNE Vx, Vy` -/
  | sneReg (x y : RegIdx)
  /-- Annn `LD I, nnn` -/
  | ldI (nnn : Addr)
  /-- Bnnn `JP V0, nnn` -/
  | jpV0 (nnn : Addr)
  /-- Cxkk `RND Vx, kk` -/
  | rnd (x : RegIdx) (kk : Byte)
  /-- Dxyn `DRW Vx, Vy, n` -/
  | drw (x y : RegIdx) (n : Nibble)
  /-- Ex9E `SKP Vx` -/
  | skp (x : RegIdx)
  /-- ExA1 `SKNP Vx` -/
  | sknp (x : RegIdx)
  /-- Fx07 `LD Vx, DT` -/
  | ldFromDT (x : RegIdx)
  /-- Fx0A `LD Vx, K` -/
  | ldKey (x : RegIdx)
  /-- Fx15 `LD DT, Vx` -/
  | ldToDT (x : RegIdx)
  /-- Fx18 `LD ST, Vx` -/
  | ldToST (x : RegIdx)
  /-- Fx1E `ADD I, Vx` -/
  | addI (x : RegIdx)
  /-- Fx29 `LD F, Vx` -/
  | ldF (x : RegIdx)
  /-- Fx33 `LD B, Vx` -/
  | ldB (x : RegIdx)
  /-- Fx55 `LD [I], Vx` -/
  | storeRegs (x : RegIdx)
  /-- Fx65 `LD Vx, [I]` -/
  | loadRegs (x : RegIdx)
  deriving DecidableEq, Repr

/-- Why a decoder reads no instruction from bytes. -/
inductive DecodeError where
  /-- Fewer than the two bytes of an instruction word are there (30_encoding.md R80). -/
  | truncated
  /-- The word matches no row of the opcode table (30_encoding.md R87); a step that meets it goes on (40_cycle.md R105). -/
  | unrecognised (w : Word)
  deriving DecidableEq, Repr

end Sys2Proof
end

