-- ==== Sys2Proof/WellFormed.lean ====
section
/-! DEFINITION. When numbers are operands of an instruction. The operand types carry the spec's bounds (10_state.md R20:
a register index outside 0 to 15 "Cannot occur structurally"), so the checks stand where a plain number becomes an
operand (30_encoding.md R95): a number that does not fit its field is refused (log 15). -/

namespace Sys2Proof

/-- A number as an operand field of `w` bits, refused when it does not fit (30_encoding.md R81, R83). -/
def fieldOf? (w n : Nat) : Option (BitVec w) :=
  if n < 2 ^ w then some (BitVec.ofNat w n) else none

/-- A register operand: V0 to VF (30_encoding.md R84). -/
def regOf? (n : Nat) : Option RegIdx := fieldOf? 4 n

/-- An 8-bit immediate `kk` (30_encoding.md R83). -/
def immOf? (n : Nat) : Option Byte := fieldOf? 8 n

/-- A 12-bit address operand `nnn` (30_encoding.md R83). -/
def addrOf? (n : Nat) : Option Addr := fieldOf? 12 n

/-- A 4-bit count `n`: 0 to 15 (30_encoding.md R83; 0 is a legal height, 90_conflicts.md C2). -/
def countOf? (n : Nat) : Option Nibble := fieldOf? 4 n

/-- An instruction is well formed when each operand, read as a number, passes its check. -/
def Instr.wellFormed : Instr → Bool
  | .cls | .ret => true
  | .jp nnn | .call nnn | .ldI nnn | .jpV0 nnn => (addrOf? nnn.toNat).isSome
  | .seImm x kk | .sneImm x kk | .ldImm x kk | .addImm x kk | .rnd x kk =>
    (regOf? x.toNat).isSome && (immOf? kk.toNat).isSome
  | .seReg x y | .ldReg x y | .orReg x y | .andReg x y | .xorReg x y | .addReg x y | .subReg x y | .shr x y
  | .subnReg x y | .shl x y | .sneReg x y => (regOf? x.toNat).isSome && (regOf? y.toNat).isSome
  | .drw x y n => (regOf? x.toNat).isSome && (regOf? y.toNat).isSome && (countOf? n.toNat).isSome
  | .skp x | .sknp x | .ldFromDT x | .ldKey x | .ldToDT x | .ldToST x | .addI x | .ldF x | .ldB x | .storeRegs x
  | .loadRegs x => (regOf? x.toNat).isSome

end Sys2Proof
end

