-- ==== Sys2Proof/Machine/Fetch.lean ====
section
/-! DEFINITION. Fetching an instruction word, what a step does with a word that selects no instruction, and placing a word
where the next step fetches: 40_cycle.md R101 to R105, 60_exceptions.md R249. -/

namespace Sys2Proof.Machine

/-- `w <- MemRead(pc0, 1) ++ MemRead(pc0 + 1, 1)` with `pc0 = pc` (40_cycle.md R101, 20_memory.md R51). -/
def fetchWord (s : State) : Word := wordOfBytes (memRead s s.pc.toNat) (memRead s (s.pc.toNat + 1))

/-- A word that matches no row: the fetch's advance of `pc`, and nothing else (40_cycle.md R105). -/
def unrecognisedWord (s : State) : State := advance s

/-- The event `UnknownOpcode(w, pc0)` (60_exceptions.md R234). -/
structure Warning where
  word : Word
  addr : Word
  deriving DecidableEq, Repr

/-- The warning output of a step from `s` (60_exceptions.md R249): an output of the step, not state (log 7). A step while
halted emits none (40_cycle.md R106). -/
def warningOf (s : State) : Option Warning :=
  if s.halted then none
  else match decodeWord (fetchWord s) with
    | some _ => none
    | none => some ⟨fetchWord s, s.pc⟩

/-- `s` with the word `w` where the next step fetches: its two bytes at `pc` and `pc + 1`, and `halted` clear, since a
halted block fetches nothing (40_cycle.md R106; log 5). -/
def placeWord (s : State) (w : Word) : State :=
  { memWrite (memWrite s s.pc.toNat (bytesOfWord w).1) (s.pc.toNat + 1) (bytesOfWord w).2 with halted := false }

end Sys2Proof.Machine
end

