-- ==== Sys2Proof/Machine/Step.lean ====
section
/-! DEFINITION. One step, `Step(rnd)` of 40_cycle.md R108, and placing the word that the next step fetches. -/

namespace Sys2Proof.Machine

/-- One fetch-decode-execute step (40_cycle.md R108). While halted it does nothing (R106); a word that matches no row
advances `pc` and nothing else (R105); else the instruction executes with `pc` already advanced (R102). -/
def step (s : State) : Host.Outcome State Fault Refusal :=
  if s.halted then .next s
  else match decodeWord (fetchWord s) with
    | some i => exec i (advance s)
    | none => .next (unrecognisedWord s)

/-- `s` with the table's word `w` of `nbits` bits placed where the next step fetches (log 5). -/
def State.withFetchWord (s : State) (nbits w : Nat) : State := placeWord s (tableWord nbits w)

end Sys2Proof.Machine
end

