-- ==== Sys2Proof/Machine/HostPort.lean ====
section
/-! DEFINITION. The host interface: the eight operations of 60_exceptions.md R244, their replies, operations presented
together (R245) and program loading (70_reset_and_hazards.md R263). A schedule is a list of operations (log 6). -/

namespace Sys2Proof.Machine

/-- The host's operations (60_exceptions.md R244). -/
inductive HostOp where
  /-- Re-initialise every piece of state (70_reset_and_hazards.md R260). -/
  | reset
  /-- One step with the random input `rnd` (40_cycle.md R108). -/
  | step (rnd : Byte)
  /-- Decrement the nonzero timers (45_keypad_timers.md R219). -/
  | tick
  /-- `K[i] <- k[i]` for `i` in 0 to 15 (60_exceptions.md R246). -/
  | setKeys (k : BitVec 16)
  /-- `M[a] <- v` (20_memory.md R60). -/
  | hostWrite (a : Addr) (v : Byte)
  /-- Returns `M[a]` (20_memory.md R60). -/
  | hostRead (a : Addr)
  /-- Returns the display (60_exceptions.md R247). -/
  | readFB
  /-- Returns the status (60_exceptions.md R248). -/
  | readStatus
  deriving DecidableEq, Repr

/-- What the block answers to an operation. -/
inductive HostReply where
  /-- Nothing. -/
  | silent
  /-- A step's warning (60_exceptions.md R249). -/
  | warning (w : Warning)
  /-- The byte of `HostRead` (20_memory.md R60). -/
  | byte (v : Byte)
  /-- The 2048 pixels of `ReadFB`, by linear index (60_exceptions.md R247). -/
  | pixels (p : Vector Bool 2048)
  /-- `halted`, `fault_cause`, `fault_pc` and `sound_on` of `ReadStatus` (60_exceptions.md R248). -/
  | status (halted : Bool) (faultCause : BitVec 2) (faultPc : Word) (soundOn : Bool)
  deriving DecidableEq, Repr

/-- `s` with the random byte `rnd` presented to the step about to run (40_cycle.md R100). -/
def presentRnd (s : State) (rnd : Byte) : State := { s with rndIn := some rnd }

/-- `s` with no random byte presented: a step's `rnd` is gone after it, read or not (40_cycle.md R110). -/
def dropRnd (s : State) : State := { s with rndIn := none }

/-- `Step(rnd)` (40_cycle.md R108): the step with `rnd` presented to it. -/
def stepWith (rnd : Byte) (s : State) : Result :=
  match step (presentRnd s rnd) with
  | .next t => .next (dropRnd t)
  | .fault r => .fault r
  | .refused r => .refused r

/-- The state after an operation (60_exceptions.md R244). Ticks, key writes, memory accesses and reads act whether or not
the block is halted (R233). -/
def perform (op : HostOp) (s : State) : Result :=
  match op with
  | .reset => .next (reinitialise s)
  | .step rnd => stepWith rnd s
  | .tick => .next (tick s)
  | .setKeys k => .next (setKeypad s k)
  | .hostWrite a v => .next (memWrite s a.toNat v)
  | .hostRead _ => .next s
  | .readFB => .next s
  | .readStatus => .next s

/-- The display by linear index: pixel `(r, c)` is entry `64*r + c` (10_state.md R35, 60_exceptions.md R247). -/
def linearPixels (fb : FrameBuffer) : Vector Bool 2048 :=
  Vector.ofFn fun k => fb[k.val / 64][k.val % 64]'(Nat.mod_lt _ (by decide))

/-- What the block answers to an operation performed at `s` (60_exceptions.md R244). -/
def reply (op : HostOp) (s : State) : HostReply :=
  match op with
  | .step _ => match warningOf s with
    | some w => .warning w
    | none => .silent
  | .hostRead a => .byte (memRead s a.toNat)
  | .readFB => .pixels (linearPixels s.fb)
  | .readStatus => .status s.halted s.faultCause s.faultPc (soundOn s)
  | .reset => .silent
  | .tick => .silent
  | .setKeys _ => .silent
  | .hostWrite _ _ => .silent

/-- A schedule: operations one after another, in one total order (60_exceptions.md R245). -/
def performAll : List HostOp → State → Result
  | [], s => .next s
  | op :: ops, s =>
    match perform op s with
    | .next t => performAll ops t
    | .fault r => .fault r
    | .refused r => .refused r

/-- The order of operations presented at the same time (60_exceptions.md R245): a reset is performed alone and the others
are dropped; a step comes before a tick (45_keypad_timers.md R220); the host must not present any other two, so there is no
order for them. -/
def serveOrder (ops : List HostOp) : Option (List HostOp) :=
  if HostOp.reset ∈ ops then some [.reset]
  else match ops with
    | [] => some []
    | [op] => some [op]
    | [.step r, .tick] => some [.step r, .tick]
    | [.tick, .step r] => some [.step r, .tick]
    | _ => none

/-- Operations presented at the same time (60_exceptions.md R245), refused where the host must not present them (log 8). -/
def performTogether (ops : List HostOp) (s : State) : Result :=
  match serveOrder ops with
  | some l => performAll l s
  | none => .refused .presentedTogether

/-- The host writes that load the bytes of `image` from address `a` up (70_reset_and_hazards.md R263). -/
def loadOps (a : Nat) : List Byte → List HostOp
  | [] => []
  | b :: image => .hostWrite (BitVec.ofNat 12 a) b :: loadOps (a + 1) image

/-- Program loading (70_reset_and_hazards.md R263): byte `i` of the image at `0x200 + i`; an image longer than 3584 bytes is
refused and never loaded (log 9). -/
def loadProgram (image : List Byte) (s : State) : Result :=
  if image.length ≤ 3584 then performAll (loadOps resetVector.toNat image) s else .refused .imageTooLong

end Sys2Proof.Machine
end

