-- ==== Sys2Proof/Safety.lean ====
section
/-! DEFINITION. What a good state is, what a step can leave alone, and what a safe run is, in the terms the statements use. -/

namespace Sys2Proof.Machine

/-- The next state of a result, if it is one. -/
def nextOf : Result → Option State
  | .next t => some t
  | .fault _ => none
  | .refused _ => none

/-- The invariant of the block: memory is in its canonical form; `SP` is 0 to 16 (10_state.md R29); `fault_cause` is never
the reserved code, is 0 exactly while the block has not faulted, and `fault_pc` is then 0 (R38); a halted block stands at
the instruction that faulted with the stack pointer that made it fault (60_exceptions.md R231, R232). -/
structure Inv (s : State) : Prop where
  memory : Memory.wf s.config.resetByte s.mem = true
  stackPointer : s.sp.toNat ≤ 16
  causeLegal : s.faultCause ≠ 3#2
  causeIffHalted : s.halted = true ↔ s.faultCause ≠ 0#2
  faultPcClear : s.halted = false → s.faultPc = 0x0000#16
  standsAtFault : s.halted = true → s.pc = s.faultPc
  overflowed : s.faultCause = 1#2 → s.sp = 0x10#8
  underflowed : s.faultCause = 2#2 → s.sp = 0x00#8

/-- Every byte of memory reads the same in both states. -/
def SameMemory (s t : State) : Prop := ∀ a, memRead t a = memRead s a

/-- Every byte of memory whose address fails `P` reads the same in both states. -/
def SameMemoryBut (P : Nat → Prop) (s t : State) : Prop := ∀ a, a < 4096 → ¬ P a → memRead t a = memRead s a

/-- Every general register whose index fails `P` reads the same in both states. -/
def SameRegsBut (P : RegIdx → Prop) (s t : State) : Prop := ∀ r, ¬ P r → readReg t r = readReg s r

/-- Every general register reads the same in both states. -/
def SameRegs (s t : State) : Prop := ∀ r, readReg t r = readReg s r

/-- Every pixel is the same in both states. -/
def SameDisplay (s t : State) : Prop := ∀ r c, pixel t.fb r c = pixel s.fb r c

/-- The stack pointer and every slot are the same in both states. -/
def SameStack (s t : State) : Prop := t.sp = s.sp ∧ ∀ j, readSlot t j = readSlot s j

/-- Both timers are the same in both states. -/
def SameTimers (s t : State) : Prop := t.dt = s.dt ∧ t.st = s.st

/-- `halted`, `fault_cause` and `fault_pc` are the same in both states. -/
def SameStatus (s t : State) : Prop := t.halted = s.halted ∧ t.faultCause = s.faultCause ∧ t.faultPc = s.faultPc

/-- The keypad and the parameters are the same in both states. -/
def SameInputs (s t : State) : Prop := t.keys = s.keys ∧ t.config = s.config

/-- The random input is the same in both states: no random byte was read. -/
def SameRandom (s t : State) : Prop := t.rndIn = s.rndIn ∧ t.draws = s.draws

/-- Only the random input and general registers can differ, and among these only those whose index meets `P`. -/
def OnlyRegsAndRandom (P : RegIdx → Prop) (s t : State) : Prop :=
  SameRegsBut P s t ∧ t.i = s.i ∧ t.pc = s.pc ∧ SameStack s t ∧ SameTimers s t ∧ SameDisplay s t ∧ SameMemory s t ∧
    SameStatus s t ∧ SameInputs s t

/-- Only general registers can differ, and among them only those whose index meets `P`. -/
def OnlyRegs (P : RegIdx → Prop) (s t : State) : Prop := OnlyRegsAndRandom P s t ∧ SameRandom s t

/-- Only the program counter can differ. -/
def OnlyPc (s t : State) : Prop :=
  SameRegs s t ∧ t.i = s.i ∧ SameStack s t ∧ SameTimers s t ∧ SameDisplay s t ∧ SameMemory s t ∧ SameStatus s t ∧
    SameInputs s t ∧ SameRandom s t

/-- Only `I` can differ. -/
def OnlyIndex (s t : State) : Prop :=
  SameRegs s t ∧ t.pc = s.pc ∧ SameStack s t ∧ SameTimers s t ∧ SameDisplay s t ∧ SameMemory s t ∧ SameStatus s t ∧
    SameInputs s t ∧ SameRandom s t

/-- Only bytes of memory whose address meets `P` can differ. -/
def OnlyMemory (P : Nat → Prop) (s t : State) : Prop :=
  SameMemoryBut P s t ∧ SameRegs s t ∧ t.i = s.i ∧ t.pc = s.pc ∧ SameStack s t ∧ SameTimers s t ∧ SameDisplay s t ∧
    SameStatus s t ∧ SameInputs s t ∧ SameRandom s t

/-- Only the stack, its pointer and the program counter can differ. -/
def OnlyStackAndPc (s t : State) : Prop :=
  SameRegs s t ∧ t.i = s.i ∧ SameTimers s t ∧ SameDisplay s t ∧ SameMemory s t ∧ SameStatus s t ∧ SameInputs s t ∧
    SameRandom s t

/-- Only the timers can differ. -/
def OnlyTimers (s t : State) : Prop :=
  SameRegs s t ∧ t.i = s.i ∧ t.pc = s.pc ∧ SameStack s t ∧ SameDisplay s t ∧ SameMemory s t ∧ SameStatus s t ∧
    SameInputs s t ∧ SameRandom s t

/-- Only the display and VF can differ. -/
def OnlyDisplayAndVF (s t : State) : Prop :=
  SameRegsBut (· = VF) s t ∧ t.i = s.i ∧ t.pc = s.pc ∧ SameStack s t ∧ SameTimers s t ∧ SameMemory s t ∧
    SameStatus s t ∧ SameInputs s t ∧ SameRandom s t

/-- The instruction completes from `s`, leaves `a` in `V[x]`, and changes nothing else: VF too is as before, unless it is
`V[x]`. -/
def Writes (i : Instr) (x : RegIdx) (s : State) (a : Byte) : Prop :=
  ∃ t, exec i s = .next t ∧ readReg t x = a ∧ OnlyRegs (· = x) s t

/-- The instruction completes from `s`, leaves the flag `f` in VF and `a` in `V[x]` (unless that is VF, which holds the
flag), and changes nothing else. -/
def WritesWithFlag (i : Instr) (x : RegIdx) (s : State) (a f : Byte) : Prop :=
  ∃ t, exec i s = .next t ∧ readReg t VF = f ∧ (x ≠ VF → readReg t x = a) ∧ OnlyRegs (fun r => r = x ∨ r = VF) s t

/-- The instruction completes from `s`, leaves `target` in `pc`, and changes nothing else. -/
def MovesPcTo (i : Instr) (s : State) (target : Word) : Prop := ∃ t, exec i s = .next t ∧ t.pc = target ∧ OnlyPc s t

/-- The instruction completes from `s`, leaves `a` in `I`, and changes nothing else. -/
def WritesIndex (i : Instr) (s : State) (a : Word) : Prop := ∃ t, exec i s = .next t ∧ t.i = a ∧ OnlyIndex s t

/-- The word the next step fetches, from the bytes of memory: `M[pc mod 4096]` high, `M[(pc + 1) mod 4096]` low. -/
def nextWord (s : State) : Word :=
  Memory.read s.config.resetByte s.mem (s.pc.toNat % 4096) ++ Memory.read s.config.resetByte s.mem ((s.pc.toNat + 1) % 4096)

/-- The pixels of the set bits of the `n` sprite bytes from `base` up, drawn at column `cx` and row `cy` (44_display.md
R193). -/
def InSprite (s : State) (cx cy : Byte) (base : Word) (n : Nat) (r : Fin 32) (c : Fin 64) : Prop :=
  ∃ row < n, ∃ col < 8, (memRead s ((base.toNat + row) % 4096)).getLsbD (7 - col) = true ∧
    r.val = (cy.toNat + row) % 32 ∧ c.val = (cx.toNat + col) % 64

/-- The registers an instruction may write: its destination (10_state.md R22), and VF for the six that write it as a flag
(R39). -/
def mayWrite : Instr → RegIdx → Prop
  | .ldImm x _, r | .addImm x _, r | .ldReg x _, r | .orReg x _, r | .andReg x _, r | .xorReg x _, r | .rnd x _, r
  | .ldFromDT x, r | .ldKey x, r => r = x
  | .addReg x _, r | .subReg x _, r | .shr x _, r | .subnReg x _, r | .shl x _, r => r = x ∨ r = VF
  | .drw _ _ _, r => r = VF
  | .loadRegs x, r => r.toNat ≤ x.toNat
  | .cls, _ | .ret, _ | .jp _, _ | .call _, _ | .seImm _ _, _ | .sneImm _ _, _ | .seReg _ _, _ | .sneReg _ _, _
  | .ldI _, _ | .jpV0 _, _ | .skp _, _ | .sknp _, _ | .ldToDT _, _ | .ldToST _, _ | .addI _, _ | .ldF _, _ | .ldB _, _
  | .storeRegs _, _ => False

/-- Two states that differ at most in the slots at or above the stack pointer, which hold popped addresses (10_state.md R30). -/
def SameButStaleSlots (s t : State) : Prop :=
  t = { s with stack := t.stack } ∧ ∀ j : Fin 16, j.val < s.sp.toNat → readSlot t j = readSlot s j

/-- The reset values of 10_state.md R41 for the font `f`. -/
def HasResetValues (f : Font) (t : State) : Prop :=
  (∀ x, readReg t x = 0x00#8) ∧ t.i = 0x0000#16 ∧ t.pc = 0x0200#16 ∧ t.sp = 0x00#8 ∧ (∀ j, readSlot t j = 0x0000#16) ∧
    t.dt = 0x00#8 ∧ t.st = 0x00#8 ∧ (∀ g : Fin 16, ∀ b : Fin 5, memRead t (5 * g + b) = f[g][b]) ∧
    (∀ a, 80 ≤ a → a < 4096 → memRead t a = 0x00#8) ∧ (∀ r c, pixel t.fb r c = false) ∧ t.keys = 0x0000#16 ∧
    t.halted = false ∧ t.faultCause = 0#2 ∧ t.faultPc = 0x0000#16

/-- No operation of the schedule, run from `s`, writes one timer other than by a tick: there is no reset in it, and no step
of it executes an instruction `writer x` (`LD DT, Vx` for the delay timer, `LD ST, Vx` for the sound timer). -/
def LeavesToTicks (writer : RegIdx → Instr) : List HostOp → State → Prop
  | [], _ => True
  | op :: ops, s =>
    op ≠ .reset ∧ (∀ rnd, op = .step rnd → s.halted = false → ∀ x, decodeWord (nextWord s) ≠ some (writer x)) ∧
      ∀ t, perform op s = .next t → LeavesToTicks writer ops t

/-- How many ticks a schedule holds. -/
def tickCount (ops : List HostOp) : Nat := ops.count .tick

/-- A safe run: the block is not halted at the start of the schedule, every operation answers a next state, and the block is
never halted on the way or at the end. So no `CALL` met a full stack and no `RET` an empty one (70_reset_and_hazards.md R273). -/
def SafeRun : List HostOp → State → Prop
  | [], s => s.halted = false
  | op :: ops, s => s.halted = false ∧ ∃ t, perform op s = .next t ∧ SafeRun ops t

end Sys2Proof.Machine
end

