-- ==== Sys2Proof/Certificates/Slice0/Obligations.lean ====
section
/-! DEFINITION. The statements about chip8_interpreter. In a statement about `exec`, `pc` has already been advanced by the
fetch (00_scope.md R14), so the executing instruction's own address `pc0` is `pc - 2`. Statements that write or read back
memory assume its canonical form, which EveryStepKeepsTheInvariant and EveryScheduleCompletesAndKeepsTheInvariant keep. -/

open Sys2Proof Sys2Proof.Machine

/-! ### Encoding -/

/-- 30_encoding.md sections 2 and 6, 20_memory.md section 2: decoding the word, or the bytes, of any well-formed instruction
gives that instruction back with every operand, and leaves the bytes after it. The opcode values are the spec's decision D6
(log 10); the instruction keeps the unread `y` of the shifts (log 12). -/
def Obligations.EncodedInstructionDecodesToItself : Prop :=
  ∀ i : Instr, i.wellFormed = true →
    decodeWord (encode i) = some i ∧ ∀ rest, decode (encodeBytes i ++ rest) = .ok (i, rest)

/-- 30_encoding.md sections 2 and 6: every word that decodes is the word of what it decodes to, so decoding drops no bit. -/
def Obligations.DecodedWordEncodesBack : Prop := ∀ (w : Word) (i : Instr), decodeWord w = some i → encode i = w

/-- 30_encoding.md section 4 (decision D7) and section 6: a word decodes to an instruction of a row exactly when it matches
the row's mask and pattern; no word matches two rows; and the order of the rows does not matter. -/
def Obligations.DecodingIsExact : Prop :=
  (∀ (w : Word) (k : Nat) (r : OpcodeRow), opcodeTable[k]? = some r →
    ((∃ i, decodeWord w = some i ∧ i.row = k) ↔ w &&& r.mask = r.pattern)) ∧
  (∀ (w : Word) (j k : Nat) (q r : OpcodeRow), opcodeTable[j]? = some q → opcodeTable[k]? = some r →
    w &&& q.mask = q.pattern → w &&& r.mask = r.pattern → j = k) ∧
  (∀ rows : List OpcodeRow, rows.Perm opcodeTable →
    ∀ w, rows.find? (fun r => r.selects w) = opcodeTable.find? (fun r => r.selects w))

/-- 30_encoding.md section 5: the words that decode to nothing are exactly those of its list. -/
def Obligations.UnrecognisedWordsAreTheListed : Prop :=
  ∀ w : Word, decodeWord w = none ↔
    (w.toNat / 4096 = 0x0 ∧ w ≠ 0x00E0#16 ∧ w ≠ 0x00EE#16) ∨
    (w.toNat / 4096 = 0x5 ∧ w.toNat % 16 ≠ 0) ∨
    (w.toNat / 4096 = 0x8 ∧ w.toNat % 16 ∈ [0x8, 0x9, 0xA, 0xB, 0xC, 0xD, 0xF]) ∨
    (w.toNat / 4096 = 0x9 ∧ w.toNat % 16 ≠ 0) ∨
    (w.toNat / 4096 = 0xE ∧ w.toNat % 256 ∉ [0x9E, 0xA1]) ∨
    (w.toNat / 4096 = 0xF ∧ w.toNat % 256 ∉ [0x07, 0x0A, 0x15, 0x18, 0x1E, 0x29, 0x33, 0x55, 0x65])

/-- 30_encoding.md section 6: words written out from the table, one or more of each family, decode to what they stand for. -/
def Obligations.WrittenWordsDecodeAsTheTableSays : Prop :=
  decode [0x00, 0xE0] = .ok (.cls, []) ∧ decode [0x00, 0xEE] = .ok (.ret, []) ∧ decode [0x23, 0x00] = .ok (.call 0x300#12, []) ∧
    decode [0x33, 0x42] = .ok (.seImm 0x3#4 0x42#8, []) ∧ decode [0x84, 0x56] = .ok (.shr 0x4#4 0x5#4, []) ∧
    decode [0xC3, 0x0F] = .ok (.rnd 0x3#4 0x0F#8, []) ∧ decode [0xA2, 0xF0] = .ok (.ldI 0x2F0#12, []) ∧
    decode [0xF2, 0x65] = .ok (.loadRegs 0x2#4, []) ∧ decode [0xD1, 0x25] = .ok (.drw 0x1#4 0x2#4 0x5#4, []) ∧
    decode [0xE0, 0xA1] = .ok (.sknp 0x0#4, []) ∧ decode [0xF5, 0x0A] = .ok (.ldKey 0x5#4, []) ∧
    decode [0x51, 0x21] = .error (.unrecognised 0x5121#16)

/-! ### The step -/

/-- 40_cycle.md R101, R102: a step of a block that is not halted fetches `M[pc mod 4096]` and `M[(pc + 1) mod 4096]`, the
first the high byte, and, when they decode to an instruction, runs it at the state whose `pc` has been advanced by 2, modulo
65536. -/
def Obligations.StepRunsTheDecodedInstruction : Prop :=
  ∀ (s : State) (i : Instr), s.halted = false → decodeWord (nextWord s) = some i →
    step s = exec i { s with pc := s.pc + 2#16 }

/-- 40_cycle.md section 1 (decision D8 for the report): a word that matches no row advances `pc` by 2, changes nothing else,
does not halt the block, and is reported with its address. -/
def Obligations.UnrecognisedWordOnlyAdvancesPc : Prop :=
  ∀ s : State, s.halted = false → decodeWord (nextWord s) = none →
    step s = .next { s with pc := s.pc + 2#16 } ∧ warningOf s = some ⟨nextWord s, s.pc⟩

/-- 60_exceptions.md section 5 (decision D8): a step presents the warning of a word exactly when the block is not halted and the
word it fetches is unrecognised; the warning names that word and its address. -/
def Obligations.WarningExactlyForUnrecognisedWords : Prop :=
  ∀ (s : State) (w : Warning),
    warningOf s = some w ↔ s.halted = false ∧ decodeWord (nextWord s) = none ∧ w.word = nextWord s ∧ w.addr = s.pc

/-- 40_cycle.md section 1 and 60_exceptions.md section 1 (decision D30): a step of a halted block changes nothing and reports
nothing, whatever `rnd` is; every operation but a reset completes and leaves the block halted with the same fault; and a
reset ends it. -/
def Obligations.HaltedBlockStaysHaltedUntilReset : Prop :=
  ∀ s : State, s.halted = true →
    step s = .next s ∧ warningOf s = none ∧
    (∀ op : HostOp, op ≠ .reset → ∃ t, perform op s = .next t ∧ t.halted = true ∧ t.faultCause = s.faultCause ∧
      t.faultPc = s.faultPc ∧ t.pc = s.pc) ∧
    ∃ t, perform .reset s = .next t ∧ t.halted = false

/-- 10_state.md section 2 and 40_cycle.md section 2 (decision D5): `pc` and any value equal to it modulo 4096 fetch the same
word, odd ones included, and a fetch at 4095 takes its low byte from address 0. -/
def Obligations.FetchReducesPcModulo4096 : Prop :=
  (∀ (s : State) (p : Word), p.toNat % 4096 = s.pc.toNat % 4096 → fetchWord { s with pc := p } = fetchWord s) ∧
    ∀ s : State, s.pc.toNat % 4096 = 4095 → fetchWord s = memRead s 4095 ++ memRead s 0

/-- 20_memory.md sections 2, 6 and 9 (decision D29): a byte the host writes is seen by the next fetch, in the high byte of a
word fetched at its address, in the low byte of a word fetched just before it, and nowhere else. -/
def Obligations.NextFetchSeesAWrittenByte : Prop :=
  ∀ (s : State) (a : Addr) (b : Byte), Memory.wf s.config.resetByte s.mem = true →
    ∃ t, perform (.hostWrite a b) s = .next t ∧ t.pc = s.pc ∧
      (s.pc.toNat % 4096 = a.toNat → fetchWord t = b ++ memRead s (s.pc.toNat + 1)) ∧
      ((s.pc.toNat + 1) % 4096 = a.toNat → fetchWord t = memRead s s.pc.toNat ++ b) ∧
      (s.pc.toNat % 4096 ≠ a.toNat → (s.pc.toNat + 1) % 4096 ≠ a.toNat → fetchWord t = fetchWord s)

/-- 40_cycle.md section 1 (the step's inputs): a step that does not execute `RND Vx, kk` does the same for every `rnd`; a step
that does not execute `LD ST, Vx` carries any value of `ST` through; and one that executes neither `LD Vx, DT` nor
`LD DT, Vx` carries any value of `DT` through. So no step decrements a timer. -/
def Obligations.StepReadsRndAndTimersOnlyWhereNamed : Prop :=
  (∀ (s : State) (a b : Byte), (∀ x kk, decodeWord (nextWord s) ≠ some (.rnd x kk)) → stepWith a s = stepWith b s) ∧
  (∀ (s : State) (a : Byte), (∀ x, decodeWord (nextWord s) ≠ some (.ldToST x)) →
    nextOf (step { s with st := a }) = (nextOf (step s)).map fun t => { t with st := a }) ∧
  ∀ (s : State) (a : Byte), (∀ x, decodeWord (nextWord s) ≠ some (.ldToDT x)) →
    (∀ x, decodeWord (nextWord s) ≠ some (.ldFromDT x)) →
    nextOf (step { s with dt := a }) = (nextOf (step s)).map fun t => { t with dt := a }

/-! ### Register loads, arithmetic and logic -/

/-- 42_alu.md R141, R142, R143: the loads and the add of an immediate write `V[x]` alone; the add wraps at 8 bits and sets no
flag. -/
def Obligations.RegisterLoadsWriteOnlyVx : Prop :=
  ∀ (s : State) (x y : RegIdx) (kk : Byte),
    Writes (.ldImm x kk) x s kk ∧
    Writes (.addImm x kk) x s (BitVec.ofNat 8 (((readReg s x).toNat + kk.toNat) % 256)) ∧
    Writes (.ldReg x y) x s (readReg s y)

/-- 42_alu.md section 2, `OR`, `AND` and `XOR` (decision D13 for VF): each bit of the result is the OR, AND or exclusive OR of
the operands' bits, and nothing but `V[x]` changes: VF is as before unless `x = 15`. -/
def Obligations.LogicWritesOnlyVx : Prop :=
  ∀ (s : State) (x y : RegIdx),
    (∃ a, Writes (.orReg x y) x s a ∧ ∀ k, a.getLsbD k = ((readReg s x).getLsbD k || (readReg s y).getLsbD k)) ∧
    (∃ a, Writes (.andReg x y) x s a ∧ ∀ k, a.getLsbD k = ((readReg s x).getLsbD k && (readReg s y).getLsbD k)) ∧
    ∃ a, Writes (.xorReg x y) x s a ∧ ∀ k, a.getLsbD k = ((readReg s x).getLsbD k ^^ (readReg s y).getLsbD k)

/-- 42_alu.md R147: the sum modulo 256, and VF the carry, written last; nothing else changes. -/
def Obligations.AddSetsCarry : Prop :=
  ∀ (s : State) (x y : RegIdx),
    WritesWithFlag (.addReg x y) x s (BitVec.ofNat 8 (((readReg s x).toNat + (readReg s y).toNat) % 256))
      (if (readReg s x).toNat + (readReg s y).toNat ≥ 256 then 1#8 else 0#8)

/-- 42_alu.md R148: the difference modulo 256, and VF 1 exactly when the minuend is strictly greater, written last; nothing
else changes. -/
def Obligations.SubSetsStrictlyGreater : Prop :=
  ∀ (s : State) (x y : RegIdx),
    WritesWithFlag (.subReg x y) x s (BitVec.ofNat 8 ((256 + (readReg s x).toNat - (readReg s y).toNat) % 256))
      (if (readReg s x).toNat > (readReg s y).toNat then 1#8 else 0#8)

/-- 42_alu.md R150: as SUB with the operands swapped. -/
def Obligations.SubnSetsStrictlyGreater : Prop :=
  ∀ (s : State) (x y : RegIdx),
    WritesWithFlag (.subnReg x y) x s (BitVec.ofNat 8 ((256 + (readReg s y).toNat - (readReg s x).toNat) % 256))
      (if (readReg s y).toNat > (readReg s x).toNat then 1#8 else 0#8)

/-- 42_alu.md section 2, `SHR Vx` and `SHL Vx` (decision D12): the half and the double modulo 256 of `V[x]`, and VF the bit
shifted out, written last; the `y` field is not read; nothing else changes. -/
def Obligations.ShiftsSetTheBitShiftedOut : Prop :=
  ∀ (s : State) (x y : RegIdx),
    WritesWithFlag (.shr x y) x s (BitVec.ofNat 8 ((readReg s x).toNat / 2)) (BitVec.ofNat 8 ((readReg s x).toNat % 2)) ∧
    WritesWithFlag (.shl x y) x s (BitVec.ofNat 8 (2 * (readReg s x).toNat % 256))
      (BitVec.ofNat 8 ((readReg s x).toNat / 128))

/-- 42_alu.md section 2, `RND Vx, kk` (decision D22): a step given `rnd` that executes it leaves `rnd AND kk` in `V[x]`,
advances `pc` by 2, and changes nothing else. -/
def Obligations.StepWithRndMasksTheGivenByte : Prop :=
  ∀ (s : State) (rnd : Byte) (x : RegIdx) (kk : Byte), s.halted = false → s.rndIn = none →
    decodeWord (nextWord s) = some (.rnd x kk) →
    ∃ t, stepWith rnd s = .next t ∧ readReg t x = rnd &&& kk ∧ OnlyRegs (· = x) { s with pc := s.pc + 2#16 } t

/-- 42_alu.md section 2, `RND Vx, kk`, in the model's form (log 1, the model's choice): it completes from every state; with no
byte presented it masks the free byte of this draw, whatever that byte is, and the next draw is another one. -/
def Obligations.RndCompletesOnAFreeByte : Prop :=
  ∀ (s : State) (x : RegIdx) (kk : Byte),
    ∃ t, exec (.rnd x kk) s = .next t ∧ OnlyRegsAndRandom (· = x) s t ∧ t.rndIn = none ∧
      (∀ r, s.rndIn = some r → readReg t x = r &&& kk ∧ t.draws = s.draws) ∧
      (s.rndIn = none → readReg t x = Config.freeRnd s.draws &&& kk ∧ t.draws = s.draws + 1)

/-! ### Control transfer -/

/-- 41_control_flow.md section 2, `RET` (decision D9 for the fault): with `SP` 1 to 16 it pops `S[SP - 1]` into `pc` and keeps
the slot; with `SP = 0` it faults: `pc` is back at the instruction, the block is halted with cause 2 and that address, and
nothing else changes. -/
def Obligations.ReturnPopsOrUnderflows : Prop :=
  (∀ (s : State) (j : Fin 16), s.sp.toNat = j.val + 1 →
    ∃ t, exec .ret s = .next t ∧ t.sp.toNat = j.val ∧ t.pc = readSlot s j ∧ (∀ k, readSlot t k = readSlot s k) ∧
      OnlyStackAndPc s t) ∧
  ∀ s : State, s.sp.toNat = 0 →
    exec .ret s = .next { s with pc := s.pc - 2#16, halted := true, faultCause := 2#2, faultPc := s.pc - 2#16 }

/-- 41_control_flow.md section 2, `CALL nnn` (decision D9 for the fault): with `SP` below 16 it stores the return address in
`S[SP]`, raises `SP` by 1 and jumps; with `SP = 16` it faults with cause 1 and changes nothing else. -/
def Obligations.CallPushesOrOverflows : Prop :=
  (∀ (s : State) (nnn : Addr) (j : Fin 16), s.sp.toNat = j.val →
    ∃ t, exec (.call nnn) s = .next t ∧ t.sp.toNat = j.val + 1 ∧ t.pc.toNat = nnn.toNat ∧ readSlot t j = s.pc ∧
      (∀ k, k ≠ j → readSlot t k = readSlot s k) ∧ OnlyStackAndPc s t) ∧
  ∀ (s : State) (nnn : Addr), s.sp.toNat = 16 →
    exec (.call nnn) s = .next { s with pc := s.pc - 2#16, halted := true, faultCause := 1#2, faultPc := s.pc - 2#16 }

/-- 41_control_flow.md R122: `JP nnn` puts the address, zero-extended, in `pc`, odd ones included, and changes nothing else;
a `JP` to its own address makes every later step execute it again, which leaves the whole state as it is. -/
def Obligations.JumpSetsPc : Prop :=
  (∀ (s : State) (nnn : Addr), MovesPcTo (.jp nnn) s (BitVec.ofNat 16 nnn.toNat)) ∧
    ∀ (s : State) (nnn : Addr) (n : Nat), s.halted = false → decodeWord (nextWord s) = some (.jp nnn) →
      s.pc.toNat = nnn.toNat → Sys2Proof.core.run n s = .next s

/-- 41_control_flow.md section 2, `JP V0, nnn` (decision D5): `pc` is the sum of `V[0]` and the address, which does not wrap
and is not reduced modulo 4096; nothing else changes. -/
def Obligations.JumpWithOffsetAddsV0 : Prop :=
  ∀ (s : State) (nnn : Addr), ∃ t, exec (.jpV0 nnn) s = .next t ∧
    t.pc.toNat = (readReg s 0x0#4).toNat + nnn.toNat ∧ OnlyPc s t

/-- 41_control_flow.md R124, R125, R126, R127: each skip adds 2 more to `pc`, modulo 65536, exactly when its condition holds,
and changes nothing else. -/
def Obligations.SkipsTestRegisters : Prop :=
  ∀ (s : State) (x y : RegIdx) (kk : Byte),
    MovesPcTo (.seImm x kk) s (if readReg s x = kk then s.pc + 2#16 else s.pc) ∧
    MovesPcTo (.sneImm x kk) s (if readReg s x = kk then s.pc else s.pc + 2#16) ∧
    MovesPcTo (.seReg x y) s (if readReg s x = readReg s y then s.pc + 2#16 else s.pc) ∧
    MovesPcTo (.sneReg x y) s (if readReg s x = readReg s y then s.pc else s.pc + 2#16)

/-- 95_test_vectors.md E6, from 41_control_flow.md section 2: a `RET` that runs with the stack a `CALL` left, whatever else has
changed, puts `pc` back after the `CALL` and `SP` back where it was. -/
def Obligations.ReturnComesBackAfterItsCall : Prop :=
  ∀ (s : State) (nnn : Addr), s.sp.toNat < 16 →
    ∃ t, exec (.call nnn) s = .next t ∧
      ∀ u : State, u.sp = t.sp → u.stack = t.stack → ∃ w, exec .ret u = .next w ∧ w.pc = s.pc ∧ w.sp = s.sp

/-- 60_exceptions.md section 1 (every handler is total) and log 4 (the model's choice): the only stop of `exec` is a `CALL` or
a `RET` in a state whose `SP` is above 16, which no run reaches; there it stops with that fault. -/
def Obligations.OnlyAnIllegalStackPointerStops : Prop :=
  ∀ (i : Instr) (s : State),
    ((∃ t, exec i s = .next t) ∨ exec i s = .fault .stackPointerOutOfRange) ∧
      (exec i s = .fault .stackPointerOutOfRange ↔ (i = .ret ∨ ∃ nnn, i = .call nnn) ∧ 16 < s.sp.toNat)

/-- 10_state.md sections 4 and 11 (decision D32): no instruction reads a slot at or above the stack pointer: from two states
that differ only there, it answers the same stop or two next states that differ only there. -/
def Obligations.StaleStackSlotsAreNeverRead : Prop :=
  ∀ (i : Instr) (s s' t : State), SameButStaleSlots s s' → exec i s = .next t →
    ∃ t', exec i s' = .next t' ∧ SameButStaleSlots t t'

/-! ### Index register, loads and stores -/

/-- 43_index_memory.md R171, R173: `I` is the address, zero-extended, or 5 times the low nibble of `V[x]`, which is at most 75;
nothing else changes. -/
def Obligations.IndexLoadsWriteOnlyI : Prop :=
  ∀ (s : State) (x : RegIdx) (nnn : Addr),
    WritesIndex (.ldI nnn) s (BitVec.ofNat 16 nnn.toNat) ∧
    WritesIndex (.ldF x) s (BitVec.ofNat 16 ((readReg s x).toNat % 16 * 5))

/-- 43_index_memory.md section 2, `ADD I, Vx` (decision D5 for the width): `I` is the sum modulo 65536, not reduced modulo
4096; nothing else changes, VF included. -/
def Obligations.AddToIndexWrapsAt16Bits : Prop :=
  ∀ (s : State) (x : RegIdx), WritesIndex (.addI x) s (BitVec.ofNat 16 ((s.i.toNat + (readReg s x).toNat) % 65536))

/-- 43_index_memory.md section 2, `LD B, Vx` (decision D14 for `I`): the hundreds, tens and ones of `V[x]` at `I`, `I + 1`, `I
+ 2`, each modulo 4096; nothing else changes, `I` included. -/
def Obligations.DecimalDigitsAreStoredAtI : Prop :=
  ∀ (s : State) (x : RegIdx), Memory.wf s.config.resetByte s.mem = true →
    ∃ t, exec (.ldB x) s = .next t ∧
      memRead t (dataAddr s.i 0) = BitVec.ofNat 8 ((readReg s x).toNat / 100) ∧
      memRead t (dataAddr s.i 1) = BitVec.ofNat 8 ((readReg s x).toNat / 10 % 10) ∧
      memRead t (dataAddr s.i 2) = BitVec.ofNat 8 ((readReg s x).toNat % 10) ∧
      OnlyMemory (fun a => ∃ k < 3, a = dataAddr s.i k) s t

/-- 43_index_memory.md section 2, `LD [I], Vx` (decision D14 for `I`): `V[k]` at `I + k` modulo 4096 for `k` from 0 to `x`;
nothing else changes, `I` included. -/
def Obligations.RegisterDumpStoresV0ToVx : Prop :=
  ∀ (s : State) (x : RegIdx), Memory.wf s.config.resetByte s.mem = true →
    ∃ t, exec (.storeRegs x) s = .next t ∧
      (∀ k : RegIdx, k.toNat ≤ x.toNat → memRead t (dataAddr s.i k.toNat) = readReg s k) ∧
      OnlyMemory (fun a => ∃ k ≤ x.toNat, a = dataAddr s.i k) s t

/-- 43_index_memory.md section 2, `LD Vx, [I]` (decision D14 for `I`): `V[k]` is the byte at `I + k` modulo 4096 for `k` from
0 to `x`; nothing else changes, `I` and the registers above `x` included. -/
def Obligations.RegisterLoadReadsV0ToVx : Prop :=
  ∀ (s : State) (x : RegIdx), ∃ t, exec (.loadRegs x) s = .next t ∧
    (∀ k : RegIdx, k.toNat ≤ x.toNat → readReg t k = memRead s ((s.i.toNat + k.toNat) % 4096)) ∧
    OnlyRegs (fun r => r.toNat ≤ x.toNat) s t

/-- 43_index_memory.md section 2: a register load through the same `I` brings back what a register dump stored, whatever the
registers hold in between, as long as memory is as the dump left it. -/
def Obligations.LoadBringsBackTheDump : Prop :=
  ∀ (s : State) (x : RegIdx), Memory.wf s.config.resetByte s.mem = true →
    ∃ t, exec (.storeRegs x) s = .next t ∧
      ∀ u : State, u.mem = t.mem → u.config = t.config → u.i = t.i →
        ∃ w, exec (.loadRegs x) u = .next w ∧ ∀ k : RegIdx, k.toNat ≤ x.toNat → readReg w k = readReg s k

/-! ### Display -/

/-- 44_display.md R191: every pixel is 0, and nothing else changes. -/
def Obligations.ClearDisplayClearsEveryPixel : Prop :=
  ∀ s : State, ∃ t, exec .cls s = .next t ∧ (∀ r c, pixel t.fb r c = false) ∧ OnlyDisplayAndVF s t ∧ SameRegs s t

/-- 44_display.md sections 1 and 2 (decision D15 for the bit order and the order of the reads): the drawing loop inverts
exactly the pixels of the sprite's set bits and leaves every other pixel; VF is 1 when one of them was set before, else 0;
nothing else changes. With `n = 0` no pixel is in the sprite. -/
def Obligations.DrawXorsTheSpriteAndReportsCollision : Prop :=
  ∀ (s : State) (x y : RegIdx) (n : Nibble), ∃ t, exec (.drw x y n) s = .next t ∧
    (∀ r c, InSprite s (readReg s x) (readReg s y) s.i n.toNat r c → pixel t.fb r c = !pixel s.fb r c) ∧
    (∀ r c, ¬ InSprite s (readReg s x) (readReg s y) s.i n.toNat r c → pixel t.fb r c = pixel s.fb r c) ∧
    ((∃ r c, InSprite s (readReg s x) (readReg s y) s.i n.toNat r c ∧ pixel s.fb r c = true) → readReg t VF = 1#8) ∧
    ((¬ ∃ r c, InSprite s (readReg s x) (readReg s y) s.i n.toNat r c ∧ pixel s.fb r c = true) → readReg t VF = 0#8) ∧
    OnlyDisplayAndVF s t

/-- 95_test_vectors.md E5, from 44_display.md section 2: drawing a sprite twice at coordinates that VF does not hold gives the
display back, and the second draw reports a collision exactly when the sprite has a pixel that was clear before the first. -/
def Obligations.DrawingTwiceErases : Prop :=
  ∀ (s : State) (x y : RegIdx) (n : Nibble), x ≠ VF → y ≠ VF →
    ∃ t u, exec (.drw x y n) s = .next t ∧ exec (.drw x y n) t = .next u ∧ u.fb = s.fb ∧
      ((∃ r c, InSprite s (readReg s x) (readReg s y) s.i n.toNat r c ∧ pixel s.fb r c = false) → readReg u VF = 1#8) ∧
      ((¬ ∃ r c, InSprite s (readReg s x) (readReg s y) s.i n.toNat r c ∧ pixel s.fb r c = false) → readReg u VF = 0#8)

/-! ### Keypad and timers -/

/-- 45_keypad_timers.md section 1 (decision D17): `SKP` skips exactly when `V[x]` is at most 15 and that key is pressed, and
`SKNP` exactly when it does not; a value of 16 or more is a key not pressed; nothing else changes. -/
def Obligations.KeySkipsTestTheKeyInVx : Prop :=
  ∀ (s : State) (x : RegIdx),
    (∀ k : Fin 16, (readReg s x).toNat = k.val → s.keys.getLsbD k.val = true →
      MovesPcTo (.skp x) s (s.pc + 2#16) ∧ MovesPcTo (.sknp x) s s.pc) ∧
    (∀ k : Fin 16, (readReg s x).toNat = k.val → s.keys.getLsbD k.val = false →
      MovesPcTo (.skp x) s s.pc ∧ MovesPcTo (.sknp x) s (s.pc + 2#16)) ∧
    (16 ≤ (readReg s x).toNat → MovesPcTo (.skp x) s s.pc ∧ MovesPcTo (.sknp x) s (s.pc + 2#16))

/-- 45_keypad_timers.md section 3 (decision D18): with a key pressed, `LD Vx, K` leaves the least pressed key in `V[x]` and
changes nothing else; with none pressed it changes nothing but `pc`, which is back at the instruction. -/
def Obligations.KeyWaitTakesTheLeastKeyOrRewinds : Prop :=
  ∀ (s : State) (x : RegIdx),
    (∀ k : Fin 16, s.keys.getLsbD k.val = true → (∀ j < k.val, s.keys.getLsbD j = false) →
      Writes (.ldKey x) x s (BitVec.ofNat 8 k.val)) ∧
    ((∀ j < 16, s.keys.getLsbD j = false) → exec (.ldKey x) s = .next { s with pc := s.pc - 2#16 })

/-- 95_test_vectors.md E7, from 45_keypad_timers.md section 3: with no key pressed, any number of steps at a `LD Vx, K` leave
the whole state as it is. -/
def Obligations.KeyWaitRepeatsUntilAKey : Prop :=
  ∀ (s : State) (x : RegIdx) (n : Nat), s.halted = false → (∀ j < 16, s.keys.getLsbD j = false) →
    decodeWord (nextWord s) = some (.ldKey x) → Sys2Proof.core.run n s = .next s

/-- 45_keypad_timers.md section 2 (decision D21 for the sound output): the delay timer is read into `V[x]`; `V[x]` is written
to the delay timer or to the sound timer, which alone then changes; after `LD ST, Vx` the sound is on exactly when `V[x]` is
not 0. -/
def Obligations.TimerInstructionsMoveOneByte : Prop :=
  ∀ (s : State) (x : RegIdx),
    Writes (.ldFromDT x) x s s.dt ∧
    (∃ t, exec (.ldToDT x) s = .next t ∧ t.dt = readReg s x ∧ t.st = s.st ∧ OnlyTimers s t) ∧
    ∃ t, exec (.ldToST x) s = .next t ∧ t.st = readReg s x ∧ t.dt = s.dt ∧
      (soundOn t = true ↔ readReg s x ≠ 0x00#8) ∧ OnlyTimers s t

/-- 45_keypad_timers.md section 4 (decision D19): a tick takes 1 from each nonzero timer, leaves a timer at 0, and changes
nothing else, halted or not; with `TIMER_DECAY` false it changes nothing. -/
def Obligations.TickCountsDownToZero : Prop :=
  ∀ s : State, ∃ t, perform .tick s = .next t ∧ OnlyTimers s t ∧
    (s.config.timerDecay = true → t.dt.toNat = s.dt.toNat - 1 ∧ t.st.toNat = s.st.toNat - 1) ∧
    (s.config.timerDecay = false → t = s)

/-- 45_keypad_timers.md section 4: with `TIMER_DECAY`, along any schedule that does not write a timer again, each tick takes 1
from it until it is 0 and it stays there: it reaches 0 after exactly as many ticks as it held, whatever steps come between. -/
def Obligations.TimerReachesZeroAfterItsTicks : Prop :=
  ∀ (ops : List HostOp) (s t : State), s.config.timerDecay = true → performAll ops s = .next t →
    (LeavesToTicks .ldToDT ops s → t.dt.toNat = s.dt.toNat - tickCount ops) ∧
    (LeavesToTicks .ldToST ops s → t.st.toNat = s.st.toNat - tickCount ops)

/-! ### What only some instructions change -/

/-- 10_state.md R22, R23 and section 10: an instruction changes no register but its destination and, for the six of the flag
table, VF. -/
def Obligations.OnlyDestinationsAndFlagsChange : Prop :=
  ∀ (i : Instr) (s t : State) (r : RegIdx), exec i s = .next t → readReg t r ≠ readReg s r → mayWrite i r

/-- 10_state.md sections 3 to 9 and 20_memory.md section 5: each storage other than the registers is changed only by the
instructions named for it; the keypad and the parameters by none; and `pc` only by the control transfers, the key skips and
the key wait. -/
def Obligations.EachStorageHasItsWriters : Prop :=
  ∀ (i : Instr) (s t : State), exec i s = .next t →
    (t.i ≠ s.i → (∃ nnn, i = .ldI nnn) ∨ (∃ x, i = .addI x) ∨ ∃ x, i = .ldF x) ∧
    (t.sp ≠ s.sp ∨ t.stack ≠ s.stack → i = .ret ∨ ∃ nnn, i = .call nnn) ∧
    (t.dt ≠ s.dt → ∃ x, i = .ldToDT x) ∧ (t.st ≠ s.st → ∃ x, i = .ldToST x) ∧
    (t.fb ≠ s.fb → i = .cls ∨ ∃ x y n, i = .drw x y n) ∧
    (t.mem ≠ s.mem → (∃ x, i = .ldB x) ∨ ∃ x, i = .storeRegs x) ∧
    (t.halted ≠ s.halted ∨ t.faultCause ≠ s.faultCause ∨ t.faultPc ≠ s.faultPc → i = .ret ∨ ∃ nnn, i = .call nnn) ∧
    (t.pc ≠ s.pc → i = .ret ∨ (∃ nnn, i = .jp nnn) ∨ (∃ nnn, i = .call nnn) ∨ (∃ x kk, i = .seImm x kk) ∨
      (∃ x kk, i = .sneImm x kk) ∨ (∃ x y, i = .seReg x y) ∨ (∃ x y, i = .sneReg x y) ∨ (∃ nnn, i = .jpV0 nnn) ∨
      (∃ x, i = .skp x) ∨ (∃ x, i = .sknp x) ∨ ∃ x, i = .ldKey x) ∧
    t.keys = s.keys ∧ t.config = s.config

/-- 60_exceptions.md section 1 (decisions D9 and D10): a step that halts the block is a `CALL` with `SP = 16` or a `RET` with
`SP = 0`; it leaves `pc` at that instruction and changes nothing but the three status registers, which hold the cause and
the address. -/
def Obligations.OnlyStackFaultsHaltAndTheyArePrecise : Prop :=
  ∀ s t : State, s.halted = false → step s = .next t → t.halted = true →
    ((∃ nnn, decodeWord (nextWord s) = some (.call nnn)) ∧ s.sp.toNat = 16 ∧
      t = { s with halted := true, faultCause := 1#2, faultPc := s.pc }) ∨
    (decodeWord (nextWord s) = some .ret ∧ s.sp.toNat = 0 ∧
      t = { s with halted := true, faultCause := 2#2, faultPc := s.pc })

/-! ### Reset and the host -/

/-- 70_reset_and_hazards.md section 1 and 10_state.md section 12 (decisions D16 and D24): a reset, from any state and for any
font, leaves every register, slot, timer, key, pixel and status register 0, `pc` at 0x200, the font at 0 to 79 and 0 in every
other byte; and so does the state right after reset. The font's bytes are a parameter (logs 2 and 3). -/
def Obligations.ResetLeavesTheResetValues : Prop :=
  (∀ s : State, ∃ t, perform .reset s = .next t ∧ t.config = s.config ∧ HasResetValues s.config.font t) ∧
    HasResetValues State.reset.config.font State.reset

/-- 60_exceptions.md section 5 (decision D23): `SetKeys` writes all sixteen flags and nothing else. -/
def Obligations.SetKeysWritesAllSixteenFlags : Prop :=
  ∀ (s : State) (k : BitVec 16), ∃ t, perform (.setKeys k) s = .next t ∧
    (∀ j < 16, t.keys.getLsbD j = k.getLsbD j) ∧ t = { s with keys := t.keys }

/-- 20_memory.md sections 7 and 8 (decision D25): `HostWrite` sets one byte and nothing else, `HostRead` answers it and changes
nothing. -/
def Obligations.HostPortReadsWhatItWrote : Prop :=
  ∀ (s : State) (a : Addr) (v : Byte), Memory.wf s.config.resetByte s.mem = true →
    ∃ t, perform (.hostWrite a v) s = .next t ∧ OnlyMemory (· = a.toNat) s t ∧
      reply (.hostRead a) t = .byte v ∧ perform (.hostRead a) t = .next t ∧
      ∀ b : Addr, b ≠ a → reply (.hostRead b) t = reply (.hostRead b) s

/-- 60_exceptions.md section 5 and 10_state.md section 7 (decisions D15 and D26): `ReadFB` answers pixel `(r, c)` at index
`64*r + c`, `ReadStatus` the status registers and `sound_on`, which is 1 exactly when `ST` is not 0; neither changes anything.
-/
def Obligations.ReadsAnswerTheDisplayAndTheStatus : Prop :=
  ∀ s : State, perform .readFB s = .next s ∧ perform .readStatus s = .next s ∧
    (∃ p : Vector Bool 2048, reply .readFB s = .pixels p ∧
      ∀ (r : Fin 32) (c : Fin 64) (h : 64 * r.val + c.val < 2048), p[64 * r.val + c.val]'h = pixel s.fb r c) ∧
    ∃ on : Bool, reply .readStatus s = .status s.halted s.faultCause s.faultPc on ∧ (on = true ↔ s.st.toNat ≠ 0)

/-- 70_reset_and_hazards.md section 2 (decision D25): an image of at most 3584 bytes lands verbatim from 0x200 up and changes
nothing else; a longer one is refused. -/
def Obligations.ProgramLoadingPlacesTheImage : Prop :=
  (∀ (s : State) (image : List Byte), Memory.wf s.config.resetByte s.mem = true → image.length ≤ 3584 →
    ∃ t, loadProgram image s = .next t ∧
      (∀ (k : Nat) (h : k < image.length), memRead t (0x200 + k) = image[k]) ∧
      OnlyMemory (fun a => 0x200 ≤ a ∧ a < 0x200 + image.length) s t) ∧
  ∀ (s : State) (image : List Byte), 3584 < image.length → loadProgram image s = .refused .imageTooLong

/-- 60_exceptions.md section 5 and 45_keypad_timers.md section 4 (decision D20): a step and a tick presented together, in either
order, are the step and then the tick; a reset presented with anything is the reset alone. -/
def Obligations.StepComesBeforeTickAndResetAlone : Prop :=
  (∀ (s : State) (r : Byte), performTogether [.tick, .step r] s = performTogether [.step r, .tick] s ∧
    nextOf (performTogether [.step r, .tick] s) = (nextOf (stepWith r s)).bind fun t => nextOf (perform .tick t)) ∧
  ∀ (s : State) (ops : List HostOp), HostOp.reset ∈ ops → performTogether ops s = perform .reset s

/-! ### Invariants and safety -/

/-- 10_state.md sections 4 and 9 and the canonical form of memory: the state right after reset meets the invariant. -/
def Obligations.ResetMeetsTheInvariant : Prop := Inv State.reset

/-- 10_state.md sections 4 and 9, 60_exceptions.md section 1: every step keeps the invariant: `SP` stays 0 to 16, the fault
cause legal and in step with `halted`, a halted block at its fault, and memory in canonical form. -/
def Obligations.EveryStepKeepsTheInvariant : Prop := ∀ s t : State, Inv s → step s = .next t → Inv t

/-- 60_exceptions.md sections 1 and 5, 00_scope.md R9: along every schedule of host operations, with every random byte, key
value and host write, the block completes every operation and keeps the invariant. -/
def Obligations.EveryScheduleCompletesAndKeepsTheInvariant : Prop :=
  ∀ (ops : List HostOp) (s : State), Inv s → ∃ t, performAll ops s = .next t ∧ Inv t

/-- 60_exceptions.md section 1 (decision D10): a schedule without a reset that ends in a block that is not halted was a safe run
throughout: no fault happened on the way. -/
def Obligations.RunThatEndsUnhaltedWasSafe : Prop :=
  ∀ (ops : List HostOp) (s t : State), HostOp.reset ∉ ops → performAll ops s = .next t → t.halted = false → SafeRun ops s
end

