-- ==== Sys2Proof/Laws/Memory.lean ====
section
/-! SUPPORT. The laws of the memory list: a read after a write, and that every operation keeps the canonical form. -/

namespace Sys2Proof.Machine

/-- The addresses a list may hold after `lo`. -/
theorem Memory.rising_cons {lo : Option Nat} {b : Nat} {w : Byte} {m : Memory} :
    Memory.rising lo ((b, w) :: m) = true ↔
      (∀ l, lo = some l → l < b) ∧ b < 4096 ∧ Memory.rising (some b) m = true := by
  cases lo <;> simp [Memory.rising, and_assoc]

/-- Raising the lower bound within what a list allows. -/
theorem Memory.rising_weaken {lo lo' : Option Nat} {m : Memory} (h : ∀ l, lo' = some l → ∃ k, lo = some k ∧ l ≤ k)
    (hr : Memory.rising lo m = true) : Memory.rising lo' m = true := by
  cases m with
  | nil => rfl
  | cons c m =>
    obtain ⟨b, w⟩ := c
    rw [Memory.rising_cons] at hr ⊢
    refine ⟨fun l hl => ?_, hr.2⟩
    obtain ⟨k, hk, hle⟩ := h l hl
    exact lt_of_le_of_lt hle (hr.1 k hk)

/-- No address at or below the lower bound is listed. -/
theorem Memory.lookup_of_rising {lo : Nat} {m : Memory} (h : Memory.rising (some lo) m = true) {a : Nat} (ha : a ≤ lo) :
    Memory.lookup m a = none := by
  induction m generalizing lo with
  | nil => rfl
  | cons c m ih =>
    obtain ⟨b, w⟩ := c
    rw [Memory.rising_cons] at h
    have hb := h.1 lo rfl
    rw [Memory.lookup, if_neg (by omega)]
    exact ih h.2.2 (by omega)

theorem Memory.lookup_insert (m : Memory) (a : Nat) (v : Byte) (b : Nat) :
    Memory.lookup (Memory.insert m a v) b = if b = a then some v else Memory.lookup m b := by
  induction m with
  | nil => simp [Memory.insert, Memory.lookup]
  | cons c m ih =>
    obtain ⟨d, w⟩ := c
    simp only [Memory.insert]
    split_ifs with h1 h2 <;> simp only [Memory.lookup] <;> split_ifs <;> simp_all

theorem Memory.lookup_erase {lo : Option Nat} {m : Memory} (h : Memory.rising lo m = true) (a b : Nat) :
    Memory.lookup (Memory.erase m a) b = if b = a then none else Memory.lookup m b := by
  induction m generalizing lo with
  | nil => simp [Memory.erase, Memory.lookup]
  | cons c m ih =>
    obtain ⟨d, w⟩ := c
    rw [Memory.rising_cons] at h
    by_cases h1 : a = d
    · subst h1
      by_cases h2 : b = a
      · subst h2; simpa [Memory.erase] using Memory.lookup_of_rising h.2.2 le_rfl
      · simp [Memory.erase, Memory.lookup, h2]
    · by_cases h2 : b = d
      · subst h2; simp [Memory.erase, Memory.lookup, h1, Ne.symm h1]
      · simp [Memory.erase, Memory.lookup, h1, h2, ih h.2.2]

theorem Memory.insert_rising {lo : Option Nat} {m : Memory} (h : Memory.rising lo m = true) {a : Nat} (v : Byte)
    (hlo : ∀ l, lo = some l → l < a) (ha : a < 4096) : Memory.rising lo (Memory.insert m a v) = true := by
  induction m generalizing lo with
  | nil => exact Memory.rising_cons.2 ⟨hlo, ha, rfl⟩
  | cons c m ih =>
    obtain ⟨b, w⟩ := c
    have hc := Memory.rising_cons.1 h
    simp only [Memory.insert]
    split_ifs with h1 h2
    · exact Memory.rising_cons.2 ⟨hlo, ha, Memory.rising_cons.2 ⟨by simpa using h1, hc.2⟩⟩
    · subst h2; exact Memory.rising_cons.2 ⟨hlo, ha, hc.2.2⟩
    · exact Memory.rising_cons.2 ⟨hc.1, hc.2.1, ih hc.2.2 (by simp; omega)⟩

theorem Memory.erase_rising {lo : Option Nat} {m : Memory} (h : Memory.rising lo m = true) (a : Nat) :
    Memory.rising lo (Memory.erase m a) = true := by
  induction m generalizing lo with
  | nil => rfl
  | cons c m ih =>
    obtain ⟨b, w⟩ := c
    have hc := Memory.rising_cons.1 h
    simp only [Memory.erase]
    split_ifs
    · exact Memory.rising_weaken (fun l hl => ⟨b, rfl, (hc.1 l hl).le⟩) hc.2.2
    · exact Memory.rising_cons.2 ⟨hc.1, hc.2.1, ih hc.2.2⟩

theorem Memory.mem_insert {m : Memory} {a : Nat} {v : Byte} {c : Host.Cell} (h : c ∈ Memory.insert m a v) :
    c = (a, v) ∨ c ∈ m := by
  induction m with
  | nil => simpa [Memory.insert] using h
  | cons d m ih =>
    obtain ⟨b, w⟩ := d
    simp only [Memory.insert] at h
    split_ifs at h <;> simp only [List.mem_cons] at h ⊢ <;> grind

theorem Memory.mem_erase {m : Memory} {a : Nat} {c : Host.Cell} (h : c ∈ Memory.erase m a) : c ∈ m := by
  induction m with
  | nil => exact h
  | cons d m ih =>
    obtain ⟨b, w⟩ := d
    simp only [Memory.erase] at h
    split_ifs at h <;> simp only [List.mem_cons] at h ⊢ <;> grind

/-- A write keeps the canonical form. -/
theorem Memory.write_wf {bg : Nat → Byte} {m : Memory} (h : Memory.wf bg m = true) {a : Nat} (ha : a < 4096)
    (v : Byte) : Memory.wf bg (Memory.write bg m a v) = true := by
  simp only [Memory.wf, Bool.and_eq_true, List.all_eq_true, decide_eq_true_eq] at h ⊢
  unfold Memory.write
  split_ifs with hv
  · exact ⟨Memory.erase_rising h.1 a, fun c hc => h.2 c (Memory.mem_erase hc)⟩
  · refine ⟨Memory.insert_rising h.1 v (by simp) ha, fun c hc => ?_⟩
    obtain rfl | hc := Memory.mem_insert hc
    · exact hv
    · exact h.2 c hc

/-- A read after a write: the byte written at its own address, the byte as before anywhere else. -/
theorem Memory.read_write {bg : Nat → Byte} {m : Memory} (h : Memory.wf bg m = true) (a : Nat) (v : Byte) (b : Nat) :
    Memory.read bg (Memory.write bg m a v) b = if b = a then v else Memory.read bg m b := by
  simp only [Memory.wf, Bool.and_eq_true] at h
  unfold Memory.read Memory.write
  by_cases hv : v = bg a <;> by_cases hb : b = a
  · subst hb; simp [Memory.lookup_erase h.1, hv]
  · simp [Memory.lookup_erase h.1, hb, hv]
  · subst hb; simp [Memory.lookup_insert, hv]
  · simp [Memory.lookup_insert, hb, hv]

/-- Nothing listed is in canonical form. -/
theorem Memory.nil_wf (bg : Nat → Byte) : Memory.wf bg [] = true := rfl

/-- The canonical form is canonical: two memories in it that read the same everywhere are the same list. -/
theorem Memory.eq_of_read {bg : Nat → Byte} {m n : Memory} (hm : Memory.wf bg m = true) (hn : Memory.wf bg n = true)
    (h : ∀ a, Memory.read bg m a = Memory.read bg n a) : m = n := by
  simp only [Memory.wf, Bool.and_eq_true, List.all_eq_true, decide_eq_true_eq] at hm hn
  have key : ∀ (m n : Memory) (lo lo' : Option Nat), Memory.rising lo m = true → Memory.rising lo' n = true →
      (∀ c ∈ m, c.2 ≠ bg c.1) → (∀ c ∈ n, c.2 ≠ bg c.1) → (∀ a, Memory.read bg m a = Memory.read bg n a) → m = n := by
    intro m
    induction m with
    | nil =>
      intro n lo lo' _ hr' _ hb' h
      cases n with
      | nil => rfl
      | cons c n =>
        have := h c.1
        simp only [Memory.read, Memory.lookup, if_true, Option.getD] at this
        exact absurd this.symm (hb' c (by simp))
    | cons c m ih =>
      intro n lo lo' hr hr' hb hb' h
      obtain ⟨b, w⟩ := c
      cases n with
      | nil =>
        have := h b
        simp only [Memory.read, Memory.lookup, if_true, Option.getD] at this
        exact absurd this (hb (b, w) (by simp))
      | cons c n =>
        obtain ⟨b', w'⟩ := c
        have hc := Memory.rising_cons.1 hr
        have hc' := Memory.rising_cons.1 hr'
        have hbb : b = b' := by
          by_contra hne
          rcases Nat.lt_or_gt_of_ne hne with hlt | hlt
          · have := h b
            simp only [Memory.read, Memory.lookup, if_true, if_neg hne, Option.getD_some,
              Memory.lookup_of_rising hc'.2.2 hlt.le, Option.getD_none] at this
            exact hb (b, w) (by simp) this
          · have := h b'
            simp only [Memory.read, Memory.lookup, if_true, if_neg (Ne.symm hne), Option.getD_some,
              Memory.lookup_of_rising hc.2.2 hlt.le, Option.getD_none] at this
            exact hb' (b', w') (by simp) this.symm
        subst hbb
        have hw : w = w' := by simpa [Memory.read, Memory.lookup] using h b
        subst hw
        refine congrArg _ (ih n (some b) (some b) hc.2.2 hc'.2.2 (fun c hc => hb c (by simp [hc]))
          (fun c hc => hb' c (by simp [hc])) fun a => ?_)
        by_cases ha : a = b
        · subst ha
          simp [Memory.read, Memory.lookup_of_rising hc.2.2 le_rfl, Memory.lookup_of_rising hc'.2.2 le_rfl]
        · simpa [Memory.read, Memory.lookup, ha] using h a
  exact key m n none none hm.1 hn.1 hm.2 hn.2 h

end Sys2Proof.Machine
end

