-- ==== Sys2Proof/Laws/State.lean ====
section
/-! SUPPORT. What each shared update of the state leaves in each field: one lemma per field per update. -/

namespace Sys2Proof.Machine

-- One theorem after another: many small ones at once would start more threads than the check allows.
set_option Elab.async false

variable (s : State)

/-! ### `writeReg` -/

@[simp] theorem writeReg_v (x : RegIdx) (a : Byte) : (writeReg s x a).v = s.v.set x.toNat a x.isLt := rfl
@[simp] theorem writeReg_i (x : RegIdx) (a : Byte) : (writeReg s x a).i = s.i := rfl
@[simp] theorem writeReg_pc (x : RegIdx) (a : Byte) : (writeReg s x a).pc = s.pc := rfl
@[simp] theorem writeReg_sp (x : RegIdx) (a : Byte) : (writeReg s x a).sp = s.sp := rfl
@[simp] theorem writeReg_stack (x : RegIdx) (a : Byte) : (writeReg s x a).stack = s.stack := rfl
@[simp] theorem writeReg_dt (x : RegIdx) (a : Byte) : (writeReg s x a).dt = s.dt := rfl
@[simp] theorem writeReg_st (x : RegIdx) (a : Byte) : (writeReg s x a).st = s.st := rfl
@[simp] theorem writeReg_keys (x : RegIdx) (a : Byte) : (writeReg s x a).keys = s.keys := rfl
@[simp] theorem writeReg_fb (x : RegIdx) (a : Byte) : (writeReg s x a).fb = s.fb := rfl
@[simp] theorem writeReg_mem (x : RegIdx) (a : Byte) : (writeReg s x a).mem = s.mem := rfl
@[simp] theorem writeReg_halted (x : RegIdx) (a : Byte) : (writeReg s x a).halted = s.halted := rfl
@[simp] theorem writeReg_faultCause (x : RegIdx) (a : Byte) : (writeReg s x a).faultCause = s.faultCause := rfl
@[simp] theorem writeReg_faultPc (x : RegIdx) (a : Byte) : (writeReg s x a).faultPc = s.faultPc := rfl
@[simp] theorem writeReg_config (x : RegIdx) (a : Byte) : (writeReg s x a).config = s.config := rfl
@[simp] theorem writeReg_rndIn (x : RegIdx) (a : Byte) : (writeReg s x a).rndIn = s.rndIn := rfl
@[simp] theorem writeReg_draws (x : RegIdx) (a : Byte) : (writeReg s x a).draws = s.draws := rfl

/-! ### `writeRegFlag` -/

@[simp] theorem writeRegFlag_i (x : RegIdx) (a : Byte) (f : Bool) : (writeRegFlag s x a f).i = s.i := rfl
@[simp] theorem writeRegFlag_pc (x : RegIdx) (a : Byte) (f : Bool) : (writeRegFlag s x a f).pc = s.pc := rfl
@[simp] theorem writeRegFlag_sp (x : RegIdx) (a : Byte) (f : Bool) : (writeRegFlag s x a f).sp = s.sp := rfl
@[simp] theorem writeRegFlag_stack (x : RegIdx) (a : Byte) (f : Bool) : (writeRegFlag s x a f).stack = s.stack := rfl
@[simp] theorem writeRegFlag_dt (x : RegIdx) (a : Byte) (f : Bool) : (writeRegFlag s x a f).dt = s.dt := rfl
@[simp] theorem writeRegFlag_st (x : RegIdx) (a : Byte) (f : Bool) : (writeRegFlag s x a f).st = s.st := rfl
@[simp] theorem writeRegFlag_keys (x : RegIdx) (a : Byte) (f : Bool) : (writeRegFlag s x a f).keys = s.keys := rfl
@[simp] theorem writeRegFlag_fb (x : RegIdx) (a : Byte) (f : Bool) : (writeRegFlag s x a f).fb = s.fb := rfl
@[simp] theorem writeRegFlag_mem (x : RegIdx) (a : Byte) (f : Bool) : (writeRegFlag s x a f).mem = s.mem := rfl
@[simp] theorem writeRegFlag_halted (x : RegIdx) (a : Byte) (f : Bool) : (writeRegFlag s x a f).halted = s.halted := rfl
@[simp] theorem writeRegFlag_faultCause (x : RegIdx) (a : Byte) (f : Bool) : (writeRegFlag s x a f).faultCause = s.faultCause := rfl
@[simp] theorem writeRegFlag_faultPc (x : RegIdx) (a : Byte) (f : Bool) : (writeRegFlag s x a f).faultPc = s.faultPc := rfl
@[simp] theorem writeRegFlag_config (x : RegIdx) (a : Byte) (f : Bool) : (writeRegFlag s x a f).config = s.config := rfl
@[simp] theorem writeRegFlag_rndIn (x : RegIdx) (a : Byte) (f : Bool) : (writeRegFlag s x a f).rndIn = s.rndIn := rfl
@[simp] theorem writeRegFlag_draws (x : RegIdx) (a : Byte) (f : Bool) : (writeRegFlag s x a f).draws = s.draws := rfl

/-! ### `setIndex` -/

@[simp] theorem setIndex_v (a : Word) : (setIndex s a).v = s.v := rfl
@[simp] theorem setIndex_i (a : Word) : (setIndex s a).i = a := rfl
@[simp] theorem setIndex_pc (a : Word) : (setIndex s a).pc = s.pc := rfl
@[simp] theorem setIndex_sp (a : Word) : (setIndex s a).sp = s.sp := rfl
@[simp] theorem setIndex_stack (a : Word) : (setIndex s a).stack = s.stack := rfl
@[simp] theorem setIndex_dt (a : Word) : (setIndex s a).dt = s.dt := rfl
@[simp] theorem setIndex_st (a : Word) : (setIndex s a).st = s.st := rfl
@[simp] theorem setIndex_keys (a : Word) : (setIndex s a).keys = s.keys := rfl
@[simp] theorem setIndex_fb (a : Word) : (setIndex s a).fb = s.fb := rfl
@[simp] theorem setIndex_mem (a : Word) : (setIndex s a).mem = s.mem := rfl
@[simp] theorem setIndex_halted (a : Word) : (setIndex s a).halted = s.halted := rfl
@[simp] theorem setIndex_faultCause (a : Word) : (setIndex s a).faultCause = s.faultCause := rfl
@[simp] theorem setIndex_faultPc (a : Word) : (setIndex s a).faultPc = s.faultPc := rfl
@[simp] theorem setIndex_config (a : Word) : (setIndex s a).config = s.config := rfl
@[simp] theorem setIndex_rndIn (a : Word) : (setIndex s a).rndIn = s.rndIn := rfl
@[simp] theorem setIndex_draws (a : Word) : (setIndex s a).draws = s.draws := rfl

/-! ### `setDT` -/

@[simp] theorem setDT_v (a : Byte) : (setDT s a).v = s.v := rfl
@[simp] theorem setDT_i (a : Byte) : (setDT s a).i = s.i := rfl
@[simp] theorem setDT_pc (a : Byte) : (setDT s a).pc = s.pc := rfl
@[simp] theorem setDT_sp (a : Byte) : (setDT s a).sp = s.sp := rfl
@[simp] theorem setDT_stack (a : Byte) : (setDT s a).stack = s.stack := rfl
@[simp] theorem setDT_dt (a : Byte) : (setDT s a).dt = a := rfl
@[simp] theorem setDT_st (a : Byte) : (setDT s a).st = s.st := rfl
@[simp] theorem setDT_keys (a : Byte) : (setDT s a).keys = s.keys := rfl
@[simp] theorem setDT_fb (a : Byte) : (setDT s a).fb = s.fb := rfl
@[simp] theorem setDT_mem (a : Byte) : (setDT s a).mem = s.mem := rfl
@[simp] theorem setDT_halted (a : Byte) : (setDT s a).halted = s.halted := rfl
@[simp] theorem setDT_faultCause (a : Byte) : (setDT s a).faultCause = s.faultCause := rfl
@[simp] theorem setDT_faultPc (a : Byte) : (setDT s a).faultPc = s.faultPc := rfl
@[simp] theorem setDT_config (a : Byte) : (setDT s a).config = s.config := rfl
@[simp] theorem setDT_rndIn (a : Byte) : (setDT s a).rndIn = s.rndIn := rfl
@[simp] theorem setDT_draws (a : Byte) : (setDT s a).draws = s.draws := rfl

/-! ### `setST` -/

@[simp] theorem setST_v (a : Byte) : (setST s a).v = s.v := rfl
@[simp] theorem setST_i (a : Byte) : (setST s a).i = s.i := rfl
@[simp] theorem setST_pc (a : Byte) : (setST s a).pc = s.pc := rfl
@[simp] theorem setST_sp (a : Byte) : (setST s a).sp = s.sp := rfl
@[simp] theorem setST_stack (a : Byte) : (setST s a).stack = s.stack := rfl
@[simp] theorem setST_dt (a : Byte) : (setST s a).dt = s.dt := rfl
@[simp] theorem setST_st (a : Byte) : (setST s a).st = a := rfl
@[simp] theorem setST_keys (a : Byte) : (setST s a).keys = s.keys := rfl
@[simp] theorem setST_fb (a : Byte) : (setST s a).fb = s.fb := rfl
@[simp] theorem setST_mem (a : Byte) : (setST s a).mem = s.mem := rfl
@[simp] theorem setST_halted (a : Byte) : (setST s a).halted = s.halted := rfl
@[simp] theorem setST_faultCause (a : Byte) : (setST s a).faultCause = s.faultCause := rfl
@[simp] theorem setST_faultPc (a : Byte) : (setST s a).faultPc = s.faultPc := rfl
@[simp] theorem setST_config (a : Byte) : (setST s a).config = s.config := rfl
@[simp] theorem setST_rndIn (a : Byte) : (setST s a).rndIn = s.rndIn := rfl
@[simp] theorem setST_draws (a : Byte) : (setST s a).draws = s.draws := rfl

/-! ### `setKeypad` -/

@[simp] theorem setKeypad_v (k : BitVec 16) : (setKeypad s k).v = s.v := rfl
@[simp] theorem setKeypad_i (k : BitVec 16) : (setKeypad s k).i = s.i := rfl
@[simp] theorem setKeypad_pc (k : BitVec 16) : (setKeypad s k).pc = s.pc := rfl
@[simp] theorem setKeypad_sp (k : BitVec 16) : (setKeypad s k).sp = s.sp := rfl
@[simp] theorem setKeypad_stack (k : BitVec 16) : (setKeypad s k).stack = s.stack := rfl
@[simp] theorem setKeypad_dt (k : BitVec 16) : (setKeypad s k).dt = s.dt := rfl
@[simp] theorem setKeypad_st (k : BitVec 16) : (setKeypad s k).st = s.st := rfl
@[simp] theorem setKeypad_keys (k : BitVec 16) : (setKeypad s k).keys = k := rfl
@[simp] theorem setKeypad_fb (k : BitVec 16) : (setKeypad s k).fb = s.fb := rfl
@[simp] theorem setKeypad_mem (k : BitVec 16) : (setKeypad s k).mem = s.mem := rfl
@[simp] theorem setKeypad_halted (k : BitVec 16) : (setKeypad s k).halted = s.halted := rfl
@[simp] theorem setKeypad_faultCause (k : BitVec 16) : (setKeypad s k).faultCause = s.faultCause := rfl
@[simp] theorem setKeypad_faultPc (k : BitVec 16) : (setKeypad s k).faultPc = s.faultPc := rfl
@[simp] theorem setKeypad_config (k : BitVec 16) : (setKeypad s k).config = s.config := rfl
@[simp] theorem setKeypad_rndIn (k : BitVec 16) : (setKeypad s k).rndIn = s.rndIn := rfl
@[simp] theorem setKeypad_draws (k : BitVec 16) : (setKeypad s k).draws = s.draws := rfl

/-! ### `setFB` -/

@[simp] theorem setFB_v (d : FrameBuffer) : (setFB s d).v = s.v := rfl
@[simp] theorem setFB_i (d : FrameBuffer) : (setFB s d).i = s.i := rfl
@[simp] theorem setFB_pc (d : FrameBuffer) : (setFB s d).pc = s.pc := rfl
@[simp] theorem setFB_sp (d : FrameBuffer) : (setFB s d).sp = s.sp := rfl
@[simp] theorem setFB_stack (d : FrameBuffer) : (setFB s d).stack = s.stack := rfl
@[simp] theorem setFB_dt (d : FrameBuffer) : (setFB s d).dt = s.dt := rfl
@[simp] theorem setFB_st (d : FrameBuffer) : (setFB s d).st = s.st := rfl
@[simp] theorem setFB_keys (d : FrameBuffer) : (setFB s d).keys = s.keys := rfl
@[simp] theorem setFB_fb (d : FrameBuffer) : (setFB s d).fb = d := rfl
@[simp] theorem setFB_mem (d : FrameBuffer) : (setFB s d).mem = s.mem := rfl
@[simp] theorem setFB_halted (d : FrameBuffer) : (setFB s d).halted = s.halted := rfl
@[simp] theorem setFB_faultCause (d : FrameBuffer) : (setFB s d).faultCause = s.faultCause := rfl
@[simp] theorem setFB_faultPc (d : FrameBuffer) : (setFB s d).faultPc = s.faultPc := rfl
@[simp] theorem setFB_config (d : FrameBuffer) : (setFB s d).config = s.config := rfl
@[simp] theorem setFB_rndIn (d : FrameBuffer) : (setFB s d).rndIn = s.rndIn := rfl
@[simp] theorem setFB_draws (d : FrameBuffer) : (setFB s d).draws = s.draws := rfl

/-! ### `jump` -/

@[simp] theorem jump_v (a : Word) : (jump s a).v = s.v := rfl
@[simp] theorem jump_i (a : Word) : (jump s a).i = s.i := rfl
@[simp] theorem jump_pc (a : Word) : (jump s a).pc = a := rfl
@[simp] theorem jump_sp (a : Word) : (jump s a).sp = s.sp := rfl
@[simp] theorem jump_stack (a : Word) : (jump s a).stack = s.stack := rfl
@[simp] theorem jump_dt (a : Word) : (jump s a).dt = s.dt := rfl
@[simp] theorem jump_st (a : Word) : (jump s a).st = s.st := rfl
@[simp] theorem jump_keys (a : Word) : (jump s a).keys = s.keys := rfl
@[simp] theorem jump_fb (a : Word) : (jump s a).fb = s.fb := rfl
@[simp] theorem jump_mem (a : Word) : (jump s a).mem = s.mem := rfl
@[simp] theorem jump_halted (a : Word) : (jump s a).halted = s.halted := rfl
@[simp] theorem jump_faultCause (a : Word) : (jump s a).faultCause = s.faultCause := rfl
@[simp] theorem jump_faultPc (a : Word) : (jump s a).faultPc = s.faultPc := rfl
@[simp] theorem jump_config (a : Word) : (jump s a).config = s.config := rfl
@[simp] theorem jump_rndIn (a : Word) : (jump s a).rndIn = s.rndIn := rfl
@[simp] theorem jump_draws (a : Word) : (jump s a).draws = s.draws := rfl

/-! ### `advance` -/

@[simp] theorem advance_v : (advance s).v = s.v := rfl
@[simp] theorem advance_i : (advance s).i = s.i := rfl
@[simp] theorem advance_pc : (advance s).pc = s.pc + 2#16 := rfl
@[simp] theorem advance_sp : (advance s).sp = s.sp := rfl
@[simp] theorem advance_stack : (advance s).stack = s.stack := rfl
@[simp] theorem advance_dt : (advance s).dt = s.dt := rfl
@[simp] theorem advance_st : (advance s).st = s.st := rfl
@[simp] theorem advance_keys : (advance s).keys = s.keys := rfl
@[simp] theorem advance_fb : (advance s).fb = s.fb := rfl
@[simp] theorem advance_mem : (advance s).mem = s.mem := rfl
@[simp] theorem advance_halted : (advance s).halted = s.halted := rfl
@[simp] theorem advance_faultCause : (advance s).faultCause = s.faultCause := rfl
@[simp] theorem advance_faultPc : (advance s).faultPc = s.faultPc := rfl
@[simp] theorem advance_config : (advance s).config = s.config := rfl
@[simp] theorem advance_rndIn : (advance s).rndIn = s.rndIn := rfl
@[simp] theorem advance_draws : (advance s).draws = s.draws := rfl

/-! ### `rewind` -/

@[simp] theorem rewind_v : (rewind s).v = s.v := rfl
@[simp] theorem rewind_i : (rewind s).i = s.i := rfl
@[simp] theorem rewind_pc : (rewind s).pc = s.pc - 2#16 := rfl
@[simp] theorem rewind_sp : (rewind s).sp = s.sp := rfl
@[simp] theorem rewind_stack : (rewind s).stack = s.stack := rfl
@[simp] theorem rewind_dt : (rewind s).dt = s.dt := rfl
@[simp] theorem rewind_st : (rewind s).st = s.st := rfl
@[simp] theorem rewind_keys : (rewind s).keys = s.keys := rfl
@[simp] theorem rewind_fb : (rewind s).fb = s.fb := rfl
@[simp] theorem rewind_mem : (rewind s).mem = s.mem := rfl
@[simp] theorem rewind_halted : (rewind s).halted = s.halted := rfl
@[simp] theorem rewind_faultCause : (rewind s).faultCause = s.faultCause := rfl
@[simp] theorem rewind_faultPc : (rewind s).faultPc = s.faultPc := rfl
@[simp] theorem rewind_config : (rewind s).config = s.config := rfl
@[simp] theorem rewind_rndIn : (rewind s).rndIn = s.rndIn := rfl
@[simp] theorem rewind_draws : (rewind s).draws = s.draws := rfl

/-! ### `pushSlot` -/

@[simp] theorem pushSlot_v (j : Fin 16) (a : Word) (n : Byte) : (pushSlot s j a n).v = s.v := rfl
@[simp] theorem pushSlot_i (j : Fin 16) (a : Word) (n : Byte) : (pushSlot s j a n).i = s.i := rfl
@[simp] theorem pushSlot_pc (j : Fin 16) (a : Word) (n : Byte) : (pushSlot s j a n).pc = s.pc := rfl
@[simp] theorem pushSlot_sp (j : Fin 16) (a : Word) (n : Byte) : (pushSlot s j a n).sp = n := rfl
@[simp] theorem pushSlot_stack (j : Fin 16) (a : Word) (n : Byte) : (pushSlot s j a n).stack = s.stack.set j a := rfl
@[simp] theorem pushSlot_dt (j : Fin 16) (a : Word) (n : Byte) : (pushSlot s j a n).dt = s.dt := rfl
@[simp] theorem pushSlot_st (j : Fin 16) (a : Word) (n : Byte) : (pushSlot s j a n).st = s.st := rfl
@[simp] theorem pushSlot_keys (j : Fin 16) (a : Word) (n : Byte) : (pushSlot s j a n).keys = s.keys := rfl
@[simp] theorem pushSlot_fb (j : Fin 16) (a : Word) (n : Byte) : (pushSlot s j a n).fb = s.fb := rfl
@[simp] theorem pushSlot_mem (j : Fin 16) (a : Word) (n : Byte) : (pushSlot s j a n).mem = s.mem := rfl
@[simp] theorem pushSlot_halted (j : Fin 16) (a : Word) (n : Byte) : (pushSlot s j a n).halted = s.halted := rfl
@[simp] theorem pushSlot_faultCause (j : Fin 16) (a : Word) (n : Byte) : (pushSlot s j a n).faultCause = s.faultCause := rfl
@[simp] theorem pushSlot_faultPc (j : Fin 16) (a : Word) (n : Byte) : (pushSlot s j a n).faultPc = s.faultPc := rfl
@[simp] theorem pushSlot_config (j : Fin 16) (a : Word) (n : Byte) : (pushSlot s j a n).config = s.config := rfl
@[simp] theorem pushSlot_rndIn (j : Fin 16) (a : Word) (n : Byte) : (pushSlot s j a n).rndIn = s.rndIn := rfl
@[simp] theorem pushSlot_draws (j : Fin 16) (a : Word) (n : Byte) : (pushSlot s j a n).draws = s.draws := rfl

/-! ### `setSP` -/

@[simp] theorem setSP_v (n : Byte) : (setSP s n).v = s.v := rfl
@[simp] theorem setSP_i (n : Byte) : (setSP s n).i = s.i := rfl
@[simp] theorem setSP_pc (n : Byte) : (setSP s n).pc = s.pc := rfl
@[simp] theorem setSP_sp (n : Byte) : (setSP s n).sp = n := rfl
@[simp] theorem setSP_stack (n : Byte) : (setSP s n).stack = s.stack := rfl
@[simp] theorem setSP_dt (n : Byte) : (setSP s n).dt = s.dt := rfl
@[simp] theorem setSP_st (n : Byte) : (setSP s n).st = s.st := rfl
@[simp] theorem setSP_keys (n : Byte) : (setSP s n).keys = s.keys := rfl
@[simp] theorem setSP_fb (n : Byte) : (setSP s n).fb = s.fb := rfl
@[simp] theorem setSP_mem (n : Byte) : (setSP s n).mem = s.mem := rfl
@[simp] theorem setSP_halted (n : Byte) : (setSP s n).halted = s.halted := rfl
@[simp] theorem setSP_faultCause (n : Byte) : (setSP s n).faultCause = s.faultCause := rfl
@[simp] theorem setSP_faultPc (n : Byte) : (setSP s n).faultPc = s.faultPc := rfl
@[simp] theorem setSP_config (n : Byte) : (setSP s n).config = s.config := rfl
@[simp] theorem setSP_rndIn (n : Byte) : (setSP s n).rndIn = s.rndIn := rfl
@[simp] theorem setSP_draws (n : Byte) : (setSP s n).draws = s.draws := rfl

/-! ### `memWrite` -/

@[simp] theorem memWrite_v (a : Nat) (b : Byte) : (memWrite s a b).v = s.v := rfl
@[simp] theorem memWrite_i (a : Nat) (b : Byte) : (memWrite s a b).i = s.i := rfl
@[simp] theorem memWrite_pc (a : Nat) (b : Byte) : (memWrite s a b).pc = s.pc := rfl
@[simp] theorem memWrite_sp (a : Nat) (b : Byte) : (memWrite s a b).sp = s.sp := rfl
@[simp] theorem memWrite_stack (a : Nat) (b : Byte) : (memWrite s a b).stack = s.stack := rfl
@[simp] theorem memWrite_dt (a : Nat) (b : Byte) : (memWrite s a b).dt = s.dt := rfl
@[simp] theorem memWrite_st (a : Nat) (b : Byte) : (memWrite s a b).st = s.st := rfl
@[simp] theorem memWrite_keys (a : Nat) (b : Byte) : (memWrite s a b).keys = s.keys := rfl
@[simp] theorem memWrite_fb (a : Nat) (b : Byte) : (memWrite s a b).fb = s.fb := rfl
@[simp] theorem memWrite_mem (a : Nat) (b : Byte) : (memWrite s a b).mem = Memory.write s.config.resetByte s.mem (a % 4096) b := rfl
@[simp] theorem memWrite_halted (a : Nat) (b : Byte) : (memWrite s a b).halted = s.halted := rfl
@[simp] theorem memWrite_faultCause (a : Nat) (b : Byte) : (memWrite s a b).faultCause = s.faultCause := rfl
@[simp] theorem memWrite_faultPc (a : Nat) (b : Byte) : (memWrite s a b).faultPc = s.faultPc := rfl
@[simp] theorem memWrite_config (a : Nat) (b : Byte) : (memWrite s a b).config = s.config := rfl
@[simp] theorem memWrite_rndIn (a : Nat) (b : Byte) : (memWrite s a b).rndIn = s.rndIn := rfl
@[simp] theorem memWrite_draws (a : Nat) (b : Byte) : (memWrite s a b).draws = s.draws := rfl

/-! ### `raiseFault` -/

@[simp] theorem raiseFault_v (c : FaultCause) : (raiseFault c s).v = s.v := rfl
@[simp] theorem raiseFault_i (c : FaultCause) : (raiseFault c s).i = s.i := rfl
@[simp] theorem raiseFault_pc (c : FaultCause) : (raiseFault c s).pc = s.pc - 2#16 := rfl
@[simp] theorem raiseFault_sp (c : FaultCause) : (raiseFault c s).sp = s.sp := rfl
@[simp] theorem raiseFault_stack (c : FaultCause) : (raiseFault c s).stack = s.stack := rfl
@[simp] theorem raiseFault_dt (c : FaultCause) : (raiseFault c s).dt = s.dt := rfl
@[simp] theorem raiseFault_st (c : FaultCause) : (raiseFault c s).st = s.st := rfl
@[simp] theorem raiseFault_keys (c : FaultCause) : (raiseFault c s).keys = s.keys := rfl
@[simp] theorem raiseFault_fb (c : FaultCause) : (raiseFault c s).fb = s.fb := rfl
@[simp] theorem raiseFault_mem (c : FaultCause) : (raiseFault c s).mem = s.mem := rfl
@[simp] theorem raiseFault_halted (c : FaultCause) : (raiseFault c s).halted = true := rfl
@[simp] theorem raiseFault_faultCause (c : FaultCause) : (raiseFault c s).faultCause = c.code := rfl
@[simp] theorem raiseFault_faultPc (c : FaultCause) : (raiseFault c s).faultPc = s.pc - 2#16 := rfl
@[simp] theorem raiseFault_config (c : FaultCause) : (raiseFault c s).config = s.config := rfl
@[simp] theorem raiseFault_rndIn (c : FaultCause) : (raiseFault c s).rndIn = s.rndIn := rfl
@[simp] theorem raiseFault_draws (c : FaultCause) : (raiseFault c s).draws = s.draws := rfl

/-! ### `presentRnd` -/

@[simp] theorem presentRnd_v (r : Byte) : (presentRnd s r).v = s.v := rfl
@[simp] theorem presentRnd_i (r : Byte) : (presentRnd s r).i = s.i := rfl
@[simp] theorem presentRnd_pc (r : Byte) : (presentRnd s r).pc = s.pc := rfl
@[simp] theorem presentRnd_sp (r : Byte) : (presentRnd s r).sp = s.sp := rfl
@[simp] theorem presentRnd_stack (r : Byte) : (presentRnd s r).stack = s.stack := rfl
@[simp] theorem presentRnd_dt (r : Byte) : (presentRnd s r).dt = s.dt := rfl
@[simp] theorem presentRnd_st (r : Byte) : (presentRnd s r).st = s.st := rfl
@[simp] theorem presentRnd_keys (r : Byte) : (presentRnd s r).keys = s.keys := rfl
@[simp] theorem presentRnd_fb (r : Byte) : (presentRnd s r).fb = s.fb := rfl
@[simp] theorem presentRnd_mem (r : Byte) : (presentRnd s r).mem = s.mem := rfl
@[simp] theorem presentRnd_halted (r : Byte) : (presentRnd s r).halted = s.halted := rfl
@[simp] theorem presentRnd_faultCause (r : Byte) : (presentRnd s r).faultCause = s.faultCause := rfl
@[simp] theorem presentRnd_faultPc (r : Byte) : (presentRnd s r).faultPc = s.faultPc := rfl
@[simp] theorem presentRnd_config (r : Byte) : (presentRnd s r).config = s.config := rfl
@[simp] theorem presentRnd_rndIn (r : Byte) : (presentRnd s r).rndIn = some r := rfl
@[simp] theorem presentRnd_draws (r : Byte) : (presentRnd s r).draws = s.draws := rfl

/-! ### `dropRnd` -/

@[simp] theorem dropRnd_v : (dropRnd s).v = s.v := rfl
@[simp] theorem dropRnd_i : (dropRnd s).i = s.i := rfl
@[simp] theorem dropRnd_pc : (dropRnd s).pc = s.pc := rfl
@[simp] theorem dropRnd_sp : (dropRnd s).sp = s.sp := rfl
@[simp] theorem dropRnd_stack : (dropRnd s).stack = s.stack := rfl
@[simp] theorem dropRnd_dt : (dropRnd s).dt = s.dt := rfl
@[simp] theorem dropRnd_st : (dropRnd s).st = s.st := rfl
@[simp] theorem dropRnd_keys : (dropRnd s).keys = s.keys := rfl
@[simp] theorem dropRnd_fb : (dropRnd s).fb = s.fb := rfl
@[simp] theorem dropRnd_mem : (dropRnd s).mem = s.mem := rfl
@[simp] theorem dropRnd_halted : (dropRnd s).halted = s.halted := rfl
@[simp] theorem dropRnd_faultCause : (dropRnd s).faultCause = s.faultCause := rfl
@[simp] theorem dropRnd_faultPc : (dropRnd s).faultPc = s.faultPc := rfl
@[simp] theorem dropRnd_config : (dropRnd s).config = s.config := rfl
@[simp] theorem dropRnd_rndIn : (dropRnd s).rndIn = none := rfl
@[simp] theorem dropRnd_draws : (dropRnd s).draws = s.draws := rfl

/-! ### `unrecognisedWord` -/

@[simp] theorem unrecognisedWord_v : (unrecognisedWord s).v = s.v := rfl
@[simp] theorem unrecognisedWord_i : (unrecognisedWord s).i = s.i := rfl
@[simp] theorem unrecognisedWord_pc : (unrecognisedWord s).pc = s.pc + 2#16 := rfl
@[simp] theorem unrecognisedWord_sp : (unrecognisedWord s).sp = s.sp := rfl
@[simp] theorem unrecognisedWord_stack : (unrecognisedWord s).stack = s.stack := rfl
@[simp] theorem unrecognisedWord_dt : (unrecognisedWord s).dt = s.dt := rfl
@[simp] theorem unrecognisedWord_st : (unrecognisedWord s).st = s.st := rfl
@[simp] theorem unrecognisedWord_keys : (unrecognisedWord s).keys = s.keys := rfl
@[simp] theorem unrecognisedWord_fb : (unrecognisedWord s).fb = s.fb := rfl
@[simp] theorem unrecognisedWord_mem : (unrecognisedWord s).mem = s.mem := rfl
@[simp] theorem unrecognisedWord_halted : (unrecognisedWord s).halted = s.halted := rfl
@[simp] theorem unrecognisedWord_faultCause : (unrecognisedWord s).faultCause = s.faultCause := rfl
@[simp] theorem unrecognisedWord_faultPc : (unrecognisedWord s).faultPc = s.faultPc := rfl
@[simp] theorem unrecognisedWord_config : (unrecognisedWord s).config = s.config := rfl
@[simp] theorem unrecognisedWord_rndIn : (unrecognisedWord s).rndIn = s.rndIn := rfl
@[simp] theorem unrecognisedWord_draws : (unrecognisedWord s).draws = s.draws := rfl

/-! ### `skipIf` -/

@[simp] theorem skipIf_v (c : Bool) : (skipIf s c).v = s.v := by cases c <;> rfl
@[simp] theorem skipIf_i (c : Bool) : (skipIf s c).i = s.i := by cases c <;> rfl
@[simp] theorem skipIf_pc (c : Bool) : (skipIf s c).pc = if c then s.pc + 2#16 else s.pc := by cases c <;> rfl
@[simp] theorem skipIf_sp (c : Bool) : (skipIf s c).sp = s.sp := by cases c <;> rfl
@[simp] theorem skipIf_stack (c : Bool) : (skipIf s c).stack = s.stack := by cases c <;> rfl
@[simp] theorem skipIf_dt (c : Bool) : (skipIf s c).dt = s.dt := by cases c <;> rfl
@[simp] theorem skipIf_st (c : Bool) : (skipIf s c).st = s.st := by cases c <;> rfl
@[simp] theorem skipIf_keys (c : Bool) : (skipIf s c).keys = s.keys := by cases c <;> rfl
@[simp] theorem skipIf_fb (c : Bool) : (skipIf s c).fb = s.fb := by cases c <;> rfl
@[simp] theorem skipIf_mem (c : Bool) : (skipIf s c).mem = s.mem := by cases c <;> rfl
@[simp] theorem skipIf_halted (c : Bool) : (skipIf s c).halted = s.halted := by cases c <;> rfl
@[simp] theorem skipIf_faultCause (c : Bool) : (skipIf s c).faultCause = s.faultCause := by cases c <;> rfl
@[simp] theorem skipIf_faultPc (c : Bool) : (skipIf s c).faultPc = s.faultPc := by cases c <;> rfl
@[simp] theorem skipIf_config (c : Bool) : (skipIf s c).config = s.config := by cases c <;> rfl
@[simp] theorem skipIf_rndIn (c : Bool) : (skipIf s c).rndIn = s.rndIn := by cases c <;> rfl
@[simp] theorem skipIf_draws (c : Bool) : (skipIf s c).draws = s.draws := by cases c <;> rfl

/-! ### `consumeRnd` -/

@[simp] theorem consumeRnd_v : (consumeRnd s).v = s.v := by unfold consumeRnd; split <;> rfl
@[simp] theorem consumeRnd_i : (consumeRnd s).i = s.i := by unfold consumeRnd; split <;> rfl
@[simp] theorem consumeRnd_pc : (consumeRnd s).pc = s.pc := by unfold consumeRnd; split <;> rfl
@[simp] theorem consumeRnd_sp : (consumeRnd s).sp = s.sp := by unfold consumeRnd; split <;> rfl
@[simp] theorem consumeRnd_stack : (consumeRnd s).stack = s.stack := by unfold consumeRnd; split <;> rfl
@[simp] theorem consumeRnd_dt : (consumeRnd s).dt = s.dt := by unfold consumeRnd; split <;> rfl
@[simp] theorem consumeRnd_st : (consumeRnd s).st = s.st := by unfold consumeRnd; split <;> rfl
@[simp] theorem consumeRnd_keys : (consumeRnd s).keys = s.keys := by unfold consumeRnd; split <;> rfl
@[simp] theorem consumeRnd_fb : (consumeRnd s).fb = s.fb := by unfold consumeRnd; split <;> rfl
@[simp] theorem consumeRnd_mem : (consumeRnd s).mem = s.mem := by unfold consumeRnd; split <;> rfl
@[simp] theorem consumeRnd_halted : (consumeRnd s).halted = s.halted := by unfold consumeRnd; split <;> rfl
@[simp] theorem consumeRnd_faultCause : (consumeRnd s).faultCause = s.faultCause := by unfold consumeRnd; split <;> rfl
@[simp] theorem consumeRnd_faultPc : (consumeRnd s).faultPc = s.faultPc := by unfold consumeRnd; split <;> rfl
@[simp] theorem consumeRnd_config : (consumeRnd s).config = s.config := by unfold consumeRnd; split <;> rfl
@[simp] theorem consumeRnd_rndIn : (consumeRnd s).rndIn = none := by unfold consumeRnd; split <;> simp_all

/-- A presented byte is not counted as a free draw; a free byte is. -/
theorem consumeRnd_draws : (consumeRnd s).draws = if s.rndIn = none then s.draws + 1 else s.draws := by
  unfold consumeRnd; split <;> simp_all

/-! ### `storeV` -/

@[simp] theorem storeV_v (n : Nat) : (storeV s n).v = s.v := by
  induction n with
  | zero => rfl
  | succ k ih => simp [storeV, ih]
@[simp] theorem storeV_i (n : Nat) : (storeV s n).i = s.i := by
  induction n with
  | zero => rfl
  | succ k ih => simp [storeV, ih]
@[simp] theorem storeV_pc (n : Nat) : (storeV s n).pc = s.pc := by
  induction n with
  | zero => rfl
  | succ k ih => simp [storeV, ih]
@[simp] theorem storeV_sp (n : Nat) : (storeV s n).sp = s.sp := by
  induction n with
  | zero => rfl
  | succ k ih => simp [storeV, ih]
@[simp] theorem storeV_stack (n : Nat) : (storeV s n).stack = s.stack := by
  induction n with
  | zero => rfl
  | succ k ih => simp [storeV, ih]
@[simp] theorem storeV_dt (n : Nat) : (storeV s n).dt = s.dt := by
  induction n with
  | zero => rfl
  | succ k ih => simp [storeV, ih]
@[simp] theorem storeV_st (n : Nat) : (storeV s n).st = s.st := by
  induction n with
  | zero => rfl
  | succ k ih => simp [storeV, ih]
@[simp] theorem storeV_keys (n : Nat) : (storeV s n).keys = s.keys := by
  induction n with
  | zero => rfl
  | succ k ih => simp [storeV, ih]
@[simp] theorem storeV_fb (n : Nat) : (storeV s n).fb = s.fb := by
  induction n with
  | zero => rfl
  | succ k ih => simp [storeV, ih]
@[simp] theorem storeV_halted (n : Nat) : (storeV s n).halted = s.halted := by
  induction n with
  | zero => rfl
  | succ k ih => simp [storeV, ih]
@[simp] theorem storeV_faultCause (n : Nat) : (storeV s n).faultCause = s.faultCause := by
  induction n with
  | zero => rfl
  | succ k ih => simp [storeV, ih]
@[simp] theorem storeV_faultPc (n : Nat) : (storeV s n).faultPc = s.faultPc := by
  induction n with
  | zero => rfl
  | succ k ih => simp [storeV, ih]
@[simp] theorem storeV_config (n : Nat) : (storeV s n).config = s.config := by
  induction n with
  | zero => rfl
  | succ k ih => simp [storeV, ih]
@[simp] theorem storeV_rndIn (n : Nat) : (storeV s n).rndIn = s.rndIn := by
  induction n with
  | zero => rfl
  | succ k ih => simp [storeV, ih]
@[simp] theorem storeV_draws (n : Nat) : (storeV s n).draws = s.draws := by
  induction n with
  | zero => rfl
  | succ k ih => simp [storeV, ih]

/-! ### `loadV` -/

@[simp] theorem loadV_i (n : Nat) : (loadV s n).i = s.i := by
  induction n with
  | zero => rfl
  | succ k ih => simp [loadV, ih]
@[simp] theorem loadV_pc (n : Nat) : (loadV s n).pc = s.pc := by
  induction n with
  | zero => rfl
  | succ k ih => simp [loadV, ih]
@[simp] theorem loadV_sp (n : Nat) : (loadV s n).sp = s.sp := by
  induction n with
  | zero => rfl
  | succ k ih => simp [loadV, ih]
@[simp] theorem loadV_stack (n : Nat) : (loadV s n).stack = s.stack := by
  induction n with
  | zero => rfl
  | succ k ih => simp [loadV, ih]
@[simp] theorem loadV_dt (n : Nat) : (loadV s n).dt = s.dt := by
  induction n with
  | zero => rfl
  | succ k ih => simp [loadV, ih]
@[simp] theorem loadV_st (n : Nat) : (loadV s n).st = s.st := by
  induction n with
  | zero => rfl
  | succ k ih => simp [loadV, ih]
@[simp] theorem loadV_keys (n : Nat) : (loadV s n).keys = s.keys := by
  induction n with
  | zero => rfl
  | succ k ih => simp [loadV, ih]
@[simp] theorem loadV_fb (n : Nat) : (loadV s n).fb = s.fb := by
  induction n with
  | zero => rfl
  | succ k ih => simp [loadV, ih]
@[simp] theorem loadV_mem (n : Nat) : (loadV s n).mem = s.mem := by
  induction n with
  | zero => rfl
  | succ k ih => simp [loadV, ih]
@[simp] theorem loadV_halted (n : Nat) : (loadV s n).halted = s.halted := by
  induction n with
  | zero => rfl
  | succ k ih => simp [loadV, ih]
@[simp] theorem loadV_faultCause (n : Nat) : (loadV s n).faultCause = s.faultCause := by
  induction n with
  | zero => rfl
  | succ k ih => simp [loadV, ih]
@[simp] theorem loadV_faultPc (n : Nat) : (loadV s n).faultPc = s.faultPc := by
  induction n with
  | zero => rfl
  | succ k ih => simp [loadV, ih]
@[simp] theorem loadV_config (n : Nat) : (loadV s n).config = s.config := by
  induction n with
  | zero => rfl
  | succ k ih => simp [loadV, ih]
@[simp] theorem loadV_rndIn (n : Nat) : (loadV s n).rndIn = s.rndIn := by
  induction n with
  | zero => rfl
  | succ k ih => simp [loadV, ih]
@[simp] theorem loadV_draws (n : Nat) : (loadV s n).draws = s.draws := by
  induction n with
  | zero => rfl
  | succ k ih => simp [loadV, ih]

/-! ### `tick` -/

@[simp] theorem tick_v : (tick s).v = s.v := by unfold tick; split <;> rfl
@[simp] theorem tick_i : (tick s).i = s.i := by unfold tick; split <;> rfl
@[simp] theorem tick_pc : (tick s).pc = s.pc := by unfold tick; split <;> rfl
@[simp] theorem tick_sp : (tick s).sp = s.sp := by unfold tick; split <;> rfl
@[simp] theorem tick_stack : (tick s).stack = s.stack := by unfold tick; split <;> rfl
@[simp] theorem tick_dt : (tick s).dt = if s.config.timerDecay then countDown s.dt else s.dt := by unfold tick; split <;> rfl
@[simp] theorem tick_st : (tick s).st = if s.config.timerDecay then countDown s.st else s.st := by unfold tick; split <;> rfl
@[simp] theorem tick_keys : (tick s).keys = s.keys := by unfold tick; split <;> rfl
@[simp] theorem tick_fb : (tick s).fb = s.fb := by unfold tick; split <;> rfl
@[simp] theorem tick_mem : (tick s).mem = s.mem := by unfold tick; split <;> rfl
@[simp] theorem tick_halted : (tick s).halted = s.halted := by unfold tick; split <;> rfl
@[simp] theorem tick_faultCause : (tick s).faultCause = s.faultCause := by unfold tick; split <;> rfl
@[simp] theorem tick_faultPc : (tick s).faultPc = s.faultPc := by unfold tick; split <;> rfl
@[simp] theorem tick_config : (tick s).config = s.config := by unfold tick; split <;> rfl
@[simp] theorem tick_rndIn : (tick s).rndIn = s.rndIn := by unfold tick; split <;> rfl
@[simp] theorem tick_draws : (tick s).draws = s.draws := by unfold tick; split <;> rfl

/-! ### Undoing the fetch's advance -/

/-- The rewind of an advance is where the fetch started: the `pc0` of 00_scope.md R14. -/
@[simp] theorem pc0_advance : pc0 (advance s) = s.pc := by simp [pc0]

/-- Rewinding right after the fetch gives the state back. -/
@[simp] theorem rewind_advance : rewind (advance s) = s := by
  simp [rewind, advance, jump, pc0]

end Sys2Proof.Machine
end

