-- ==== Sys2Proof/Laws/Registers.lean ====
section
/-! SUPPORT. What the register and stack operations do, said once: a read after a write, and the state each leaves to
`readReg`, `readSlot`. -/

namespace Sys2Proof.Machine

variable (s : State)

/-- Two states with the same register file read the same registers. -/
theorem readReg_congr {s t : State} (h : t.v = s.v) (x : RegIdx) : readReg t x = readReg s x := by simp [readReg, h]

/-- Two states with the same stack read the same slots. -/
theorem readSlot_congr {s t : State} (h : t.stack = s.stack) (j : Fin 16) : readSlot t j = readSlot s j := by
  simp [readSlot, h]

/-- A register read after a register write. -/
theorem readReg_writeReg (x y : RegIdx) (a : Byte) : readReg (writeReg s x a) y = if y = x then a else readReg s y := by
  simp only [readReg, writeReg, Vector.getElem_set, BitVec.toNat_inj, eq_comm (a := x)]

@[simp] theorem readReg_writeReg_self (x : RegIdx) (a : Byte) : readReg (writeReg s x a) x = a := by
  simp [readReg_writeReg]

/-- A register read after a result and its flag: VF is the flag, whatever `x` is (42_alu.md R140 (c)). -/
theorem readReg_writeRegFlag (x y : RegIdx) (a : Byte) (f : Bool) :
    readReg (writeRegFlag s x a f) y = if y = VF then flagByte f else if y = x then a else readReg s y := by
  simp [writeRegFlag, readReg_writeReg]

@[simp] theorem readReg_setIndex (a : Word) (x : RegIdx) : readReg (setIndex s a) x = readReg s x := rfl
@[simp] theorem readReg_setDT (a : Byte) (x : RegIdx) : readReg (setDT s a) x = readReg s x := rfl
@[simp] theorem readReg_setST (a : Byte) (x : RegIdx) : readReg (setST s a) x = readReg s x := rfl
@[simp] theorem readReg_setKeypad (k : BitVec 16) (x : RegIdx) : readReg (setKeypad s k) x = readReg s x := rfl
@[simp] theorem readReg_setFB (d : FrameBuffer) (x : RegIdx) : readReg (setFB s d) x = readReg s x := rfl
@[simp] theorem readReg_jump (a : Word) (x : RegIdx) : readReg (jump s a) x = readReg s x := rfl
@[simp] theorem readReg_advance (x : RegIdx) : readReg (advance s) x = readReg s x := rfl
@[simp] theorem readReg_rewind (x : RegIdx) : readReg (rewind s) x = readReg s x := rfl
@[simp] theorem readReg_skipIf (c : Bool) (x : RegIdx) : readReg (skipIf s c) x = readReg s x := readReg_congr (by simp) x
@[simp] theorem readReg_pushSlot (j : Fin 16) (a : Word) (n : Byte) (x : RegIdx) :
    readReg (pushSlot s j a n) x = readReg s x := rfl
@[simp] theorem readReg_setSP (n : Byte) (x : RegIdx) : readReg (setSP s n) x = readReg s x := rfl
@[simp] theorem readReg_memWrite (a : Nat) (b : Byte) (x : RegIdx) : readReg (memWrite s a b) x = readReg s x := rfl
@[simp] theorem readReg_raiseFault (c : FaultCause) (x : RegIdx) : readReg (raiseFault c s) x = readReg s x := rfl
@[simp] theorem readReg_consumeRnd (x : RegIdx) : readReg (consumeRnd s) x = readReg s x := readReg_congr (by simp) x
@[simp] theorem readReg_storeV (n : Nat) (x : RegIdx) : readReg (storeV s n) x = readReg s x := readReg_congr (by simp) x
@[simp] theorem readReg_tick (x : RegIdx) : readReg (tick s) x = readReg s x := readReg_congr (by simp) x

/-- A slot read after a push. -/
theorem readSlot_pushSlot (j k : Fin 16) (a : Word) (n : Byte) :
    readSlot (pushSlot s j a n) k = if k = j then a else readSlot s k := by
  simp only [readSlot, pushSlot, Fin.getElem_fin, Vector.getElem_set, Fin.ext_iff, eq_comm (a := (j : Nat))]

@[simp] theorem readSlot_setSP (n : Byte) (j : Fin 16) : readSlot (setSP s n) j = readSlot s j := rfl
@[simp] theorem readSlot_jump (a : Word) (j : Fin 16) : readSlot (jump s a) j = readSlot s j := rfl
@[simp] theorem readSlot_raiseFault (c : FaultCause) (j : Fin 16) : readSlot (raiseFault c s) j = readSlot s j := rfl

/-- A register after the load of the first `n` registers, `n` at most 16: those below `n` come from memory. -/
theorem readReg_loadV {n : Nat} (hn : n ≤ 16) (x : RegIdx) :
    readReg (loadV s n) x = if x.toNat < n then memRead s (dataAddr s.i x.toNat) else readReg s x := by
  induction n with
  | zero => simp [loadV]
  | succ k ih =>
    rw [loadV, readReg_writeReg, ih (by omega)]
    have hx : x = BitVec.ofNat 4 k ↔ x.toNat = k := by
      rw [← BitVec.toNat_inj, BitVec.toNat_ofNat, Nat.mod_eq_of_lt (by omega)]
    by_cases h : x.toNat = k
    · simp [hx, h]
    · simp only [hx, h, if_false]
      congr 1
      exact propext (by omega)

end Sys2Proof.Machine
end

