-- ==== Sys2Proof/Laws/Access.lean ====
section
/-! SUPPORT. What reading and writing memory through the state does: every write keeps the canonical form, a write is seen
at its own byte and nowhere else, and nothing but a write changes what memory reads as. -/

namespace Sys2Proof.Machine

variable (s : State)

/-- Two states with the same memory and parameters read the same bytes. -/
theorem memRead_congr {s t : State} (hm : t.mem = s.mem) (hc : t.config = s.config) (a : Nat) :
    memRead t a = memRead s a := by simp [memRead, hm, hc]

@[simp] theorem memRead_writeReg (x : RegIdx) (b : Byte) (a : Nat) : memRead (writeReg s x b) a = memRead s a := rfl
@[simp] theorem memRead_writeRegFlag (x : RegIdx) (b : Byte) (f : Bool) (a : Nat) :
    memRead (writeRegFlag s x b f) a = memRead s a := rfl
@[simp] theorem memRead_setIndex (w : Word) (a : Nat) : memRead (setIndex s w) a = memRead s a := rfl
@[simp] theorem memRead_setDT (b : Byte) (a : Nat) : memRead (setDT s b) a = memRead s a := rfl
@[simp] theorem memRead_setST (b : Byte) (a : Nat) : memRead (setST s b) a = memRead s a := rfl
@[simp] theorem memRead_setKeypad (k : BitVec 16) (a : Nat) : memRead (setKeypad s k) a = memRead s a := rfl
@[simp] theorem memRead_setFB (d : FrameBuffer) (a : Nat) : memRead (setFB s d) a = memRead s a := rfl
@[simp] theorem memRead_jump (w : Word) (a : Nat) : memRead (jump s w) a = memRead s a := rfl
@[simp] theorem memRead_advance (a : Nat) : memRead (advance s) a = memRead s a := rfl
@[simp] theorem memRead_rewind (a : Nat) : memRead (rewind s) a = memRead s a := rfl
@[simp] theorem memRead_skipIf (c : Bool) (a : Nat) : memRead (skipIf s c) a = memRead s a :=
  memRead_congr (by simp) (by simp) a
@[simp] theorem memRead_pushSlot (j : Fin 16) (w : Word) (n : Byte) (a : Nat) :
    memRead (pushSlot s j w n) a = memRead s a := rfl
@[simp] theorem memRead_setSP (n : Byte) (a : Nat) : memRead (setSP s n) a = memRead s a := rfl
@[simp] theorem memRead_raiseFault (c : FaultCause) (a : Nat) : memRead (raiseFault c s) a = memRead s a := rfl
@[simp] theorem memRead_consumeRnd (a : Nat) : memRead (consumeRnd s) a = memRead s a :=
  memRead_congr (by simp) (by simp) a
@[simp] theorem memRead_loadV (n a : Nat) : memRead (loadV s n) a = memRead s a := memRead_congr (by simp) (by simp) a
@[simp] theorem memRead_tick (a : Nat) : memRead (tick s) a = memRead s a := memRead_congr (by simp) (by simp) a

/-- An address is read modulo 4096 (20_memory.md R54). -/
@[simp] theorem memRead_mod (a : Nat) : memRead s (a % 4096) = memRead s a := by simp [memRead]

/-- A data address is below 4096. -/
theorem dataAddr_lt (base : Word) (k : Nat) : dataAddr base k < 4096 := Nat.mod_lt _ (by decide)

@[simp] theorem dataAddr_mod (base : Word) (k : Nat) : dataAddr base k % 4096 = dataAddr base k :=
  Nat.mod_eq_of_lt (dataAddr_lt base k)

/-- The addresses of one access are pairwise distinct (20_memory.md R56). -/
theorem dataAddr_inj {base : Word} {j k : Nat} (hj : j < 16) (hk : k < 16) (h : dataAddr base j = dataAddr base k) :
    j = k := by
  unfold dataAddr at h; omega

/-- A write keeps the canonical form of memory. -/
theorem memWrite_wf (h : Memory.wf s.config.resetByte s.mem = true) (a : Nat) (b : Byte) :
    Memory.wf (memWrite s a b).config.resetByte (memWrite s a b).mem = true :=
  Memory.write_wf h (Nat.mod_lt _ (by decide)) b

/-- A read after a write (20_memory.md R61). -/
theorem memRead_memWrite (h : Memory.wf s.config.resetByte s.mem = true) (a : Nat) (b : Byte) (c : Nat) :
    memRead (memWrite s a b) c = if c % 4096 = a % 4096 then b else memRead s c :=
  Memory.read_write h _ b _

/-- Storing registers keeps the canonical form of memory. -/
theorem storeV_wf (h : Memory.wf s.config.resetByte s.mem = true) (n : Nat) :
    Memory.wf (storeV s n).config.resetByte (storeV s n).mem = true := by
  induction n with
  | zero => exact h
  | succ k ih => exact memWrite_wf _ ih _ _

/-- A byte outside the stored range reads as before. -/
theorem memRead_storeV_other (h : Memory.wf s.config.resetByte s.mem = true) {n a : Nat}
    (ha : ∀ k, k < n → a % 4096 ≠ dataAddr s.i k) : memRead (storeV s n) a = memRead s a := by
  induction n with
  | zero => rfl
  | succ k ih =>
    rw [storeV, memRead_memWrite _ (storeV_wf s h k), dataAddr_mod, if_neg (ha k (by omega)),
      ih fun j hj => ha j (by omega)]

/-- Byte `k` of the stored range reads as register `k`. -/
theorem memRead_storeV (h : Memory.wf s.config.resetByte s.mem = true) {n : Nat} (hn : n ≤ 16) {k : Nat} (hk : k < n) :
    memRead (storeV s n) (dataAddr s.i k) = readReg s (BitVec.ofNat 4 k) := by
  induction n with
  | zero => omega
  | succ m ih =>
    rw [storeV, memRead_memWrite _ (storeV_wf s h m), dataAddr_mod, dataAddr_mod]
    by_cases hm : k = m
    · simp [hm]
    · rw [if_neg fun he => hm (dataAddr_inj (by omega) (by omega) he), ih (by omega) (by omega)]

end Sys2Proof.Machine
end

