-- ==== Sys2Proof/Laws/Decode.lean ====
section
/-! SUPPORT. What the decoder reads from a word of each format, field by field, and the bytes of a word. -/

namespace Sys2Proof

/-- The category of a word of format A. -/
@[simp] theorem fieldsOf_formatA_c (c : Nibble) (nnn : Addr) : (fieldsOf (formatA c nnn)).c = c :=
  BitVec.extractLsb'_append_eq_left

/-- The address of a word of format A. -/
@[simp] theorem fieldsOf_formatA_nnn (c : Nibble) (nnn : Addr) : (fieldsOf (formatA c nnn)).nnn = nnn :=
  BitVec.extractLsb'_append_eq_right

/-- The category of a word of format XKK. -/
@[simp] theorem fieldsOf_formatXKK_c (c : Nibble) (x : RegIdx) (kk : Byte) : (fieldsOf (formatXKK c x kk)).c = c :=
  fieldsOf_formatA_c c (x ++ kk)

/-- The register of a word of format XKK. -/
@[simp] theorem fieldsOf_formatXKK_x (c : Nibble) (x : RegIdx) (kk : Byte) : (fieldsOf (formatXKK c x kk)).x = x := by
  show (c ++ (x ++ kk)).extractLsb' 8 4 = x
  rw [BitVec.extractLsb'_append_eq_of_add_le (by decide), BitVec.extractLsb'_append_eq_left]

/-- The immediate of a word of format XKK. -/
@[simp] theorem fieldsOf_formatXKK_kk (c : Nibble) (x : RegIdx) (kk : Byte) : (fieldsOf (formatXKK c x kk)).kk = kk := by
  show (c ++ (x ++ kk)).extractLsb' 0 8 = kk
  rw [BitVec.extractLsb'_append_eq_of_add_le (by decide), BitVec.extractLsb'_append_eq_right]

/-- The category of a word of format XYN. -/
@[simp] theorem fieldsOf_formatXYN_c (c : Nibble) (x y : RegIdx) (n : Nibble) : (fieldsOf (formatXYN c x y n)).c = c :=
  fieldsOf_formatA_c c (x ++ (y ++ n))

/-- The first register of a word of format XYN. -/
@[simp] theorem fieldsOf_formatXYN_x (c : Nibble) (x y : RegIdx) (n : Nibble) : (fieldsOf (formatXYN c x y n)).x = x :=
  fieldsOf_formatXKK_x c x (y ++ n)

/-- The second register of a word of format XYN. -/
@[simp] theorem fieldsOf_formatXYN_y (c : Nibble) (x y : RegIdx) (n : Nibble) : (fieldsOf (formatXYN c x y n)).y = y := by
  show (c ++ (x ++ (y ++ n))).extractLsb' 4 4 = y
  rw [BitVec.extractLsb'_append_eq_of_add_le (by decide), BitVec.extractLsb'_append_eq_of_add_le (by decide),
    BitVec.extractLsb'_append_eq_left]

/-- The count of a word of format XYN. -/
@[simp] theorem fieldsOf_formatXYN_n (c : Nibble) (x y : RegIdx) (n : Nibble) : (fieldsOf (formatXYN c x y n)).n = n := by
  show (c ++ (x ++ (y ++ n))).extractLsb' 0 4 = n
  rw [BitVec.extractLsb'_append_eq_of_add_le (by decide), BitVec.extractLsb'_append_eq_of_add_le (by decide),
    BitVec.extractLsb'_append_eq_right]

/-- The bytes of a word make the word (20_memory.md R51). -/
@[simp] theorem wordOfBytes_bytesOfWord (w : Word) : wordOfBytes (bytesOfWord w).1 (bytesOfWord w).2 = w := by
  show w.extractLsb' 8 8 ++ w.extractLsb' 0 8 = w
  apply BitVec.eq_of_getLsbD_eq
  intro i hi
  simp only [BitVec.getLsbD_append, BitVec.getLsbD_extractLsb']
  split
  · simp_all
  · rw [show 8 + (i - 8) = i by omega]; simp; omega

/-- A table word of 16 bits is decoded as its word. -/
theorem decodeTableWord_eq (w : Word) : decodeTableWord 16 w.toNat = decodeWord w := by
  have : tableWord 16 w.toNat = w := by simp [tableWord, Nat.mod_eq_of_lt w.isLt]
  simp only [decodeTableWord, this, decode, wordOfBytes_bytesOfWord]
  cases decodeWord w <;> rfl

end Sys2Proof
end

