-- ==== Sys2Proof/Laws/Display.lean ====
section
/-! SUPPORT. What the display operations do to one pixel. -/

namespace Sys2Proof.Machine

/-- Toggling inverts its own pixel and no other. -/
theorem pixel_togglePixel (fb : FrameBuffer) (r r' : Fin 32) (c c' : Fin 64) :
    pixel (togglePixel fb r c) r' c' = (pixel fb r' c' ^^ decide (r' = r ∧ c' = c)) := by
  unfold pixel togglePixel
  by_cases h : r' = r
  · subst h; simp [Fin.ext_iff, eq_comm]
  · have : (r : Nat) ≠ r' := fun e => h (Fin.ext e.symm)
    simp [h, this]

/-- A cleared display has no pixel set (44_display.md R191). -/
theorem pixel_clear (r : Fin 32) (c : Fin 64) : pixel (Vector.replicate 32 0#64) r c = false := by simp [pixel]

/-- Two displays with the same pixels are the same display. -/
theorem fb_ext {fb gb : FrameBuffer} (h : ∀ r c, pixel fb r c = pixel gb r c) : fb = gb := by
  apply Vector.ext
  intro r hr
  apply BitVec.eq_of_getElem_eq
  intro c hc
  simpa [pixel] using h ⟨r, hr⟩ ⟨c, hc⟩

/-- One sprite bit, on one pixel: it is inverted exactly when the bit is set and lands there. -/
theorem pixel_drawBit (b cx cy : Byte) (row col : Nat) (d : FrameBuffer × Bool) (r : Fin 32) (c : Fin 64) :
    pixel (drawBit b cx cy row col d).1 r c =
      (pixel d.1 r c ^^ (spriteBit b col && decide (r = pixelRow cy row ∧ c = pixelCol cx col))) := by
  unfold drawBit
  split_ifs with h <;> simp [pixel_togglePixel, h]

/-- One sprite bit, on the collision flag: a hit when the bit is set and its pixel was. -/
theorem hit_drawBit (b cx cy : Byte) (row col : Nat) (d : FrameBuffer × Bool) :
    (drawBit b cx cy row col d).2 = (d.2 || (spriteBit b col && pixel d.1 (pixelRow cy row) (pixelCol cx col))) := by
  unfold drawBit
  split_ifs with h <;> simp [h]

end Sys2Proof.Machine
end

