-- ==== Sys2Proof/Laws/PerInstr.lean ====
section
/-! SUPPORT. For every instruction: its word selects its own row of the opcode table (30_encoding.md R82, R90). -/

namespace Sys2Proof.Laws.EncodedWord

-- One theorem after another: many small ones at once would start more threads than the check allows.
set_option Elab.async false

/-- The word of the instruction matches the mask and pattern of its row. -/
def Statement (i : Instr) : Prop := (opcodeTable[i.row]?.map fun r => r.selects (encode i)) = some true

/-- A mask acts on each part of a word by itself. -/
theorem masked_append {u v : Nat} {a m r : BitVec u} {b k q : BitVec v} (ha : a &&& m = r) (hb : b &&& k = q) :
    (a ++ b) &&& (m ++ k) = r ++ q := by rw [BitVec.and_append, ha, hb]

/-- A word of format A keeps its category under the mask 0xF000. -/
theorem formatA_masked (c : Nibble) (nnn : Addr) : formatA c nnn &&& 0xF000#16 = c ++ 0#12 :=
  masked_append (m := BitVec.allOnes 4) (k := 0#12) BitVec.and_allOnes BitVec.and_zero

/-- A word of format XKK keeps its category under the mask 0xF000. -/
theorem formatXKK_masked (c : Nibble) (x : RegIdx) (kk : Byte) : formatXKK c x kk &&& 0xF000#16 = c ++ 0#12 :=
  formatA_masked c (x ++ kk)

/-- A word of format XYN keeps its category under the mask 0xF000. -/
theorem formatXYN_masked (c : Nibble) (x y : RegIdx) (n : Nibble) : formatXYN c x y n &&& 0xF000#16 = c ++ 0#12 :=
  formatA_masked c (x ++ (y ++ n))

/-- A word of format XOP keeps its category and its operation under the mask 0xF0FF. -/
theorem formatXOP_masked (c : Nibble) (x : RegIdx) (kk : Byte) :
    formatXKK c x kk &&& 0xF0FF#16 = c ++ (0x0#4 ++ kk) :=
  masked_append (m := BitVec.allOnes 4) BitVec.and_allOnes
    (masked_append (m := 0x0#4) (k := BitVec.allOnes 8) BitVec.and_zero BitVec.and_allOnes)

/-- A word of format XY keeps its category and its operation under the mask 0xF00F. -/
theorem formatXY_masked (c : Nibble) (x y : RegIdx) (n : Nibble) :
    formatXYN c x y n &&& 0xF00F#16 = c ++ (0x0#4 ++ (0x0#4 ++ n)) :=
  masked_append (m := BitVec.allOnes 4) BitVec.and_allOnes (masked_append (m := 0x0#4) BitVec.and_zero
    (masked_append (m := 0x0#4) (k := BitVec.allOnes 4) BitVec.and_zero BitVec.and_allOnes))

theorem cls : Statement .cls := rfl
theorem ret : Statement .ret := rfl
theorem jp (nnn : Addr) : Statement (.jp nnn) := by
  simp [Statement, Instr.row, opcodeTable, OpcodeRow.selects, encode, formatA_masked]
theorem call (nnn : Addr) : Statement (.call nnn) := by
  simp [Statement, Instr.row, opcodeTable, OpcodeRow.selects, encode, formatA_masked]
theorem seImm (x : RegIdx) (kk : Byte) : Statement (.seImm x kk) := by
  simp [Statement, Instr.row, opcodeTable, OpcodeRow.selects, encode, formatXKK_masked]
theorem sneImm (x : RegIdx) (kk : Byte) : Statement (.sneImm x kk) := by
  simp [Statement, Instr.row, opcodeTable, OpcodeRow.selects, encode, formatXKK_masked]
theorem seReg (x : RegIdx) (y : RegIdx) : Statement (.seReg x y) := by
  simp [Statement, Instr.row, opcodeTable, OpcodeRow.selects, encode, formatXY_masked]
theorem ldImm (x : RegIdx) (kk : Byte) : Statement (.ldImm x kk) := by
  simp [Statement, Instr.row, opcodeTable, OpcodeRow.selects, encode, formatXKK_masked]
theorem addImm (x : RegIdx) (kk : Byte) : Statement (.addImm x kk) := by
  simp [Statement, Instr.row, opcodeTable, OpcodeRow.selects, encode, formatXKK_masked]
theorem ldReg (x : RegIdx) (y : RegIdx) : Statement (.ldReg x y) := by
  simp [Statement, Instr.row, opcodeTable, OpcodeRow.selects, encode, formatXY_masked]
theorem orReg (x : RegIdx) (y : RegIdx) : Statement (.orReg x y) := by
  simp [Statement, Instr.row, opcodeTable, OpcodeRow.selects, encode, formatXY_masked]
theorem andReg (x : RegIdx) (y : RegIdx) : Statement (.andReg x y) := by
  simp [Statement, Instr.row, opcodeTable, OpcodeRow.selects, encode, formatXY_masked]
theorem xorReg (x : RegIdx) (y : RegIdx) : Statement (.xorReg x y) := by
  simp [Statement, Instr.row, opcodeTable, OpcodeRow.selects, encode, formatXY_masked]
theorem addReg (x : RegIdx) (y : RegIdx) : Statement (.addReg x y) := by
  simp [Statement, Instr.row, opcodeTable, OpcodeRow.selects, encode, formatXY_masked]
theorem subReg (x : RegIdx) (y : RegIdx) : Statement (.subReg x y) := by
  simp [Statement, Instr.row, opcodeTable, OpcodeRow.selects, encode, formatXY_masked]
theorem shr (x : RegIdx) (y : RegIdx) : Statement (.shr x y) := by
  simp [Statement, Instr.row, opcodeTable, OpcodeRow.selects, encode, formatXY_masked]
theorem subnReg (x : RegIdx) (y : RegIdx) : Statement (.subnReg x y) := by
  simp [Statement, Instr.row, opcodeTable, OpcodeRow.selects, encode, formatXY_masked]
theorem shl (x : RegIdx) (y : RegIdx) : Statement (.shl x y) := by
  simp [Statement, Instr.row, opcodeTable, OpcodeRow.selects, encode, formatXY_masked]
theorem sneReg (x : RegIdx) (y : RegIdx) : Statement (.sneReg x y) := by
  simp [Statement, Instr.row, opcodeTable, OpcodeRow.selects, encode, formatXY_masked]
theorem ldI (nnn : Addr) : Statement (.ldI nnn) := by
  simp [Statement, Instr.row, opcodeTable, OpcodeRow.selects, encode, formatA_masked]
theorem jpV0 (nnn : Addr) : Statement (.jpV0 nnn) := by
  simp [Statement, Instr.row, opcodeTable, OpcodeRow.selects, encode, formatA_masked]
theorem rnd (x : RegIdx) (kk : Byte) : Statement (.rnd x kk) := by
  simp [Statement, Instr.row, opcodeTable, OpcodeRow.selects, encode, formatXKK_masked]
theorem drw (x : RegIdx) (y : RegIdx) (n : Nibble) : Statement (.drw x y n) := by
  simp [Statement, Instr.row, opcodeTable, OpcodeRow.selects, encode, formatXYN_masked]
theorem skp (x : RegIdx) : Statement (.skp x) := by
  simp [Statement, Instr.row, opcodeTable, OpcodeRow.selects, encode, formatXOP_masked]
theorem sknp (x : RegIdx) : Statement (.sknp x) := by
  simp [Statement, Instr.row, opcodeTable, OpcodeRow.selects, encode, formatXOP_masked]
theorem ldFromDT (x : RegIdx) : Statement (.ldFromDT x) := by
  simp [Statement, Instr.row, opcodeTable, OpcodeRow.selects, encode, formatXOP_masked]
theorem ldKey (x : RegIdx) : Statement (.ldKey x) := by
  simp [Statement, Instr.row, opcodeTable, OpcodeRow.selects, encode, formatXOP_masked]
theorem ldToDT (x : RegIdx) : Statement (.ldToDT x) := by
  simp [Statement, Instr.row, opcodeTable, OpcodeRow.selects, encode, formatXOP_masked]
theorem ldToST (x : RegIdx) : Statement (.ldToST x) := by
  simp [Statement, Instr.row, opcodeTable, OpcodeRow.selects, encode, formatXOP_masked]
theorem addI (x : RegIdx) : Statement (.addI x) := by
  simp [Statement, Instr.row, opcodeTable, OpcodeRow.selects, encode, formatXOP_masked]
theorem ldF (x : RegIdx) : Statement (.ldF x) := by
  simp [Statement, Instr.row, opcodeTable, OpcodeRow.selects, encode, formatXOP_masked]
theorem ldB (x : RegIdx) : Statement (.ldB x) := by
  simp [Statement, Instr.row, opcodeTable, OpcodeRow.selects, encode, formatXOP_masked]
theorem storeRegs (x : RegIdx) : Statement (.storeRegs x) := by
  simp [Statement, Instr.row, opcodeTable, OpcodeRow.selects, encode, formatXOP_masked]
theorem loadRegs (x : RegIdx) : Statement (.loadRegs x) := by
  simp [Statement, Instr.row, opcodeTable, OpcodeRow.selects, encode, formatXOP_masked]

end Sys2Proof.Laws.EncodedWord
end

