-- ==== Sys2Proof/Laws/Step.lean ====
section
/-! SUPPORT. Everything a step, a return and a call can do, said once, so that a proof about them takes cases and unfolds
nothing. -/

namespace Sys2Proof.Machine

variable {s t : State}

/-- A step that answers a next state found the block halted, met a word that is no instruction, or ran an instruction
(40_cycle.md R108). -/
theorem step_cases (h : step s = .next t) :
    (s.halted = true ∧ t = s) ∨
      (s.halted = false ∧ decodeWord (fetchWord s) = none ∧ t = advance s) ∨
      ∃ i, s.halted = false ∧ decodeWord (fetchWord s) = some i ∧ exec i (advance s) = .next t := by
  unfold step at h
  split_ifs at h with hs
  · cases h; exact .inl ⟨hs, rfl⟩
  · have hs : s.halted = false := by simpa using hs
    cases hd : decodeWord (fetchWord s) with
    | none => rw [hd] at h; cases h; exact .inr (.inl ⟨hs, rfl, rfl⟩)
    | some i => rw [hd] at h; exact .inr (.inr ⟨i, hs, rfl, h⟩)

/-- A return that answers a next state met an empty stack or popped a slot (41_control_flow.md R121). -/
theorem execRet_cases (h : execRet s = .next t) :
    (s.sp = 0x00#8 ∧ t = raiseFault .stackUnderflow s) ∨
      ∃ j : Fin 16, s.sp ≠ 0x00#8 ∧ (s.sp - 0x01#8).toNat = j ∧ t = jump (setSP s (s.sp - 0x01#8)) (readSlot s j) := by
  unfold execRet at h
  split_ifs at h with h0 hj
  · cases h; exact .inl ⟨h0, rfl⟩
  · cases h; exact .inr ⟨⟨_, hj⟩, h0, rfl, rfl⟩

/-- A call that answers a next state met a full stack or pushed a slot (41_control_flow.md R123). -/
theorem execCall_cases {nnn : Addr} (h : execCall nnn s = .next t) :
    (s.sp = 0x10#8 ∧ t = raiseFault .stackOverflow s) ∨
      ∃ j : Fin 16, s.sp.toNat = j ∧ t = jump (pushSlot s j s.pc (s.sp + 0x01#8)) (zext16 nnn) := by
  unfold execCall at h
  split_ifs at h with h0 hj
  · cases h; exact .inl ⟨h0, rfl⟩
  · cases h; exact .inr ⟨⟨_, hj⟩, rfl, rfl⟩

/-- A key wait takes the least pressed key or rewinds (45_keypad_timers.md R216). -/
theorem execLdKey_cases (x : RegIdx) (s : State) :
    (∃ k, lowestKey s.keys = some k ∧ execLdKey x s = .next (writeReg s x (BitVec.ofNat 8 k))) ∨
      (lowestKey s.keys = none ∧ execLdKey x s = .next (rewind s)) := by
  unfold execLdKey
  cases h : lowestKey s.keys with
  | none => exact .inr ⟨rfl, rfl⟩
  | some k => exact .inl ⟨k, rfl, rfl⟩

/-- A skip leaves `pc` alone or adds 2 to it (41_control_flow.md R120). -/
theorem skipIf_eq (s : State) (c : Bool) : skipIf s c = jump s (if c then s.pc + 2#16 else s.pc) := by
  cases c <;> rfl

/-- A step with a named random byte is a step with that byte presented, and the byte is gone after it (40_cycle.md R110). -/
theorem stepWith_cases {rnd : Byte} (h : stepWith rnd s = .next t) :
    ∃ u, step (presentRnd s rnd) = .next u ∧ t = dropRnd u := by
  unfold stepWith at h
  split at h
  · rename_i u hu; cases h; exact ⟨u, hu, rfl⟩
  · cases h
  · cases h

end Sys2Proof.Machine
end

