-- ==== Sys2Proof/Tests/Slice0.lean ====
section
/-! SUPPORT. Tests of the model on small states, their expected values taken from spec/95_test_vectors.md (the vector is named
in each comment) or worked out from the rule named there, and for each statement with hypotheses a witness that meets them. -/

namespace Sys2Proof.Tests

open Sys2Proof Sys2Proof.Machine

-- One theorem after another: many small ones at once would start more threads than the check allows.
set_option Elab.async false

/-- `s` with the listed registers. -/
def withRegs (l : List (RegIdx × Byte)) (s : State) : State := l.foldl (fun s p => writeReg s p.1 p.2) s

/-- `s` with the listed bytes of memory. -/
def withBytes (l : List (Nat × Byte)) (s : State) : State := l.foldl (fun s p => memWrite s p.1 p.2) s

/-- The state after one step from `s` with the word `w` at its `pc`. -/
def after (s : State) (w : Word) : Option State := nextOf (step (placeWord s w))

/-- Some registers of a state. -/
def regs (l : List RegIdx) (s : State) : List Byte := l.map (readReg s)

/-- Some bytes of memory. -/
def bytes (l : List Nat) (s : State) : List Byte := l.map (memRead s)

/-- The pixels that are set, by row and column. -/
def lit (s : State) : List (Nat × Nat) :=
  (List.finRange 32).flatMap fun r => ((List.finRange 64).filter fun c => pixel s.fb r c).map fun c => (r.val, c.val)

/-- Reset with `I = 0x300` and the byte `b` there. -/
def spriteAt300 (b : Byte) : State := withBytes [(0x300, b)] (setIndex State.reset 0x300#16)

/-- Reset with the stack pointer `n` and every slot 0x0202. -/
def withSP (n : Byte) : State := { State.reset with sp := n, stack := Vector.replicate 16 0x0202#16 }

/-- A block halted by a call on a full stack, as vector CF5 leaves it. -/
def haltedState : State := { withSP 0x10#8 with halted := true, faultCause := 1#2, faultPc := 0x0200#16 }

/-! ### Operands are checked -/

-- 30_encoding.md R83, R84: a register is 4 bits, an immediate 8, an address 12, a count 4.
theorem test_register_16_refused : regOf? 16 = none ∧ regOf? 15 = some VF := by decide
theorem test_immediate_256_refused : immOf? 256 = none ∧ immOf? 255 = some 0xFF#8 := by decide
theorem test_address_4096_refused : addrOf? 4096 = none ∧ addrOf? 4095 = some 0xFFF#12 := by decide
theorem test_count_16_refused : countOf? 16 = none ∧ countOf? 0 = some 0x0#4 := by decide

/-! ### Decoding: words written out from 30_encoding.md R90 and section 6 -/

theorem test_decode_cls : decodeWord 0x00E0#16 = some .cls := by decide
theorem test_decode_ret : decodeWord 0x00EE#16 = some .ret := by decide
theorem test_decode_jp : decodeWord 0b0001_0010_0011_0100#16 = some (.jp 0x234#12) := by decide
theorem test_decode_call : decodeWord 0x2300#16 = some (.call 0x300#12) := by decide
theorem test_decode_seImm : decodeWord 0b0011_0011_0100_0010#16 = some (.seImm 3#4 0x42#8) := by decide
theorem test_decode_sneImm : decodeWord 0x4342#16 = some (.sneImm 3#4 0x42#8) := by decide
theorem test_decode_seReg : decodeWord 0x5120#16 = some (.seReg 1#4 2#4) := by decide
theorem test_decode_ldImm : decodeWord 0x6A05#16 = some (.ldImm 0xA#4 0x05#8) := by decide
theorem test_decode_addImm : decodeWord 0x70FF#16 = some (.addImm 0#4 0xFF#8) := by decide
theorem test_decode_ldReg : decodeWord 0x8010#16 = some (.ldReg 0#4 1#4) := by decide
theorem test_decode_orReg : decodeWord 0x8121#16 = some (.orReg 1#4 2#4) := by decide
theorem test_decode_andReg : decodeWord 0x8122#16 = some (.andReg 1#4 2#4) := by decide
theorem test_decode_xorReg : decodeWord 0x8123#16 = some (.xorReg 1#4 2#4) := by decide
theorem test_decode_addReg : decodeWord 0x8F14#16 = some (.addReg 0xF#4 1#4) := by decide
theorem test_decode_subReg : decodeWord 0x8125#16 = some (.subReg 1#4 2#4) := by decide
theorem test_decode_shr : decodeWord 0b1000_0100_0101_0110#16 = some (.shr 4#4 5#4) := by decide
theorem test_decode_subnReg : decodeWord 0x8127#16 = some (.subnReg 1#4 2#4) := by decide
theorem test_decode_shl : decodeWord 0x840E#16 = some (.shl 4#4 0#4) := by decide
theorem test_decode_sneReg : decodeWord 0x9120#16 = some (.sneReg 1#4 2#4) := by decide
theorem test_decode_ldI : decodeWord 0b1010_0010_1111_0000#16 = some (.ldI 0x2F0#12) := by decide
theorem test_decode_jpV0 : decodeWord 0xBFFF#16 = some (.jpV0 0xFFF#12) := by decide
theorem test_decode_rnd : decodeWord 0xC30F#16 = some (.rnd 3#4 0x0F#8) := by decide
theorem test_decode_drw : decodeWord 0b1101_0001_0010_0101#16 = some (.drw 1#4 2#4 5#4) := by decide
theorem test_decode_skp : decodeWord 0b1110_0000_1001_1110#16 = some (.skp 0#4) := by decide
theorem test_decode_sknp : decodeWord 0xE0A1#16 = some (.sknp 0#4) := by decide
theorem test_decode_ldFromDT : decodeWord 0xF307#16 = some (.ldFromDT 3#4) := by decide
theorem test_decode_ldKey : decodeWord 0xF50A#16 = some (.ldKey 5#4) := by decide
theorem test_decode_ldToDT : decodeWord 0xF315#16 = some (.ldToDT 3#4) := by decide
theorem test_decode_ldToST : decodeWord 0xF318#16 = some (.ldToST 3#4) := by decide
theorem test_decode_addI : decodeWord 0xF11E#16 = some (.addI 1#4) := by decide
theorem test_decode_ldF : decodeWord 0xF229#16 = some (.ldF 2#4) := by decide
theorem test_decode_ldB : decodeWord 0xF033#16 = some (.ldB 0#4) := by decide
theorem test_decode_storeRegs : decodeWord 0xFF55#16 = some (.storeRegs 0xF#4) := by decide
theorem test_decode_loadRegs : decodeWord 0b1111_0010_0110_0101#16 = some (.loadRegs 2#4) := by decide

-- CY2 to CY5, CY8; 30_encoding.md section 5.
theorem test_decode_unrecognised :
    [0x0000#16, 0x0123#16, 0x5121#16, 0x8008#16, 0x800F#16, 0x9AB1#16, 0xE0FF#16, 0xF0FF#16, 0xF090#16].map decodeWord =
      List.replicate 9 none := by decide
-- 30_encoding.md R80: an instruction is exactly two bytes.
theorem test_decode_truncated : decode [0x6A] = .error .truncated ∧ decode [] = .error .truncated := ⟨rfl, rfl⟩
-- The table's row as a number.
theorem test_decodeTableWord : decodeTableWord 16 0xD125 = some (.drw 1#4 2#4 5#4) := by decide

/-! ### The step -/

-- CY1: the byte at the lower address is the high byte.
theorem test_fetch_is_big_endian :
    (nextOf (step (withBytes [(0x200, 0x12#8), (0x201, 0x34#8)] State.reset))).map (·.pc) = some 0x0234#16 := by
  decide +kernel
-- CY6: a fetch at 4095 takes its low byte from address 0, which holds F0.
theorem test_fetch_wraps :
    (nextOf (step (withBytes [(0xFFF, 0x12#8)] { State.reset with pc := 0x0FFF#16 }))).map (·.pc) = some 0x02F0#16 := by
  decide +kernel
-- CY10: pc wraps at 16 bits.
theorem test_pc_wraps :
    (after { State.reset with pc := 0xFFFE#16 } 0x6001#16).map (fun t => (t.pc, readReg t 0#4)) =
      some (0x0000#16, 0x01#8) := by decide +kernel
-- CY2: the word 0000 is a warning.
theorem test_unrecognised_word :
    step State.reset = .next { State.reset with pc := 0x0202#16 } ∧
      warningOf State.reset = some ⟨0x0000#16, 0x0200#16⟩ := ⟨rfl, rfl⟩
-- CY9: a step while halted.
theorem test_step_halted : step haltedState = .next haltedState ∧ warningOf haltedState = none := ⟨rfl, rfl⟩

/-! ### Control transfer -/

-- CF2: an odd target is accepted.
theorem test_jp_odd : (after State.reset 0x1201#16).map (·.pc) = some 0x0201#16 := by decide +kernel
-- CF4.
theorem test_call :
    (after State.reset 0x2300#16).map (fun t => (readSlot t 0, t.sp, t.pc)) = some (0x0202#16, 0x01#8, 0x0300#16) := by
  decide +kernel
-- CF5: the stack is full.
theorem test_call_overflow :
    (after (withSP 0x10#8) 0x2300#16).map (fun t => (t.halted, t.faultCause, t.faultPc, t.pc, t.sp)) =
      some (true, 1#2, 0x0200#16, 0x0200#16, 0x10#8) := by decide +kernel
-- CF7: the popped slot keeps its value.
theorem test_ret :
    (after { State.reset with sp := 0x03#8, stack := State.reset.stack.set 2 0x0456#16 } 0x00EE#16).map
      (fun t => (t.sp, t.pc, readSlot t 2)) = some (0x02#8, 0x0456#16, 0x0456#16) := by decide +kernel
-- CF8: the stack is empty.
theorem test_ret_underflow :
    (after State.reset 0x00EE#16).map (fun t => (t.halted, t.faultCause, t.faultPc, t.pc, t.sp)) =
      some (true, 2#2, 0x0200#16, 0x0200#16, 0x00#8) := by decide +kernel
-- CF9.
theorem test_seImm :
    [0x3342#16, 0x3343#16].map (fun w => (after (withRegs [(3#4, 0x42#8)] State.reset) w).map (·.pc)) =
      [some 0x0204#16, some 0x0202#16] := by decide +kernel
-- CF17: a taken skip wraps at 16 bits.
theorem test_skip_wraps :
    (after (withRegs [(0#4, 0x01#8)] { State.reset with pc := 0xFFFC#16 }) 0x3001#16).map (·.pc) = some 0x0000#16 := by
  decide +kernel
-- CF10.
theorem test_sneImm :
    [0x4342#16, 0x4343#16].map (fun w => (after (withRegs [(3#4, 0x42#8)] State.reset) w).map (·.pc)) =
      [some 0x0202#16, some 0x0204#16] := by decide +kernel
-- CF11, and two registers that differ (R126).
theorem test_seReg :
    [0x5120#16, 0x5130#16].map (fun w => (after (withRegs [(1#4, 0x07#8), (2#4, 0x07#8)] State.reset) w).map (·.pc)) =
      [some 0x0204#16, some 0x0202#16] := by decide +kernel
-- CF13, CF14.
theorem test_sneReg :
    [0x9120#16, 0x9550#16].map (fun w => (after (withRegs [(1#4, 0x07#8), (2#4, 0x08#8)] State.reset) w).map (·.pc)) =
      [some 0x0204#16, some 0x0202#16] := by decide +kernel
-- CF16: no reduction modulo 4096.
theorem test_jpV0 : (after (withRegs [(0#4, 0xFF#8)] State.reset) 0xBFFF#16).map (·.pc) = some 0x10FE#16 := by
  decide +kernel

/-! ### Arithmetic and logic -/

-- E1.
theorem test_ldImm : (after State.reset 0x6A05#16).map (fun t => (readReg t 0xA#4, t.pc)) = some (0x05#8, 0x0202#16) := by
  decide +kernel
-- AL2: no carry flag.
theorem test_addImm_no_flag :
    (after (withRegs [(0#4, 0x02#8), (VF, 0x07#8)] State.reset) 0x70FF#16).map (regs [0#4, VF]) = some [0x01#8, 0x07#8] := by
  decide +kernel
-- AL4.
theorem test_ldReg : (after (withRegs [(1#4, 0x5A#8)] State.reset) 0x8010#16).map (regs [0#4, 1#4]) = some [0x5A#8, 0x5A#8] := by
  decide +kernel
-- AL5: VF is not touched.
theorem test_orReg :
    (after (withRegs [(0#4, 0x0F#8), (1#4, 0xF0#8), (VF, 0x05#8)] State.reset) 0x8011#16).map (regs [0#4, VF]) =
      some [0xFF#8, 0x05#8] := by decide +kernel
-- AL6.
theorem test_andReg :
    (after (withRegs [(0#4, 0x3C#8), (1#4, 0x0F#8), (VF, 0x05#8)] State.reset) 0x8012#16).map (regs [0#4, VF]) =
      some [0x0C#8, 0x05#8] := by decide +kernel
-- AL7.
theorem test_xorReg :
    (after (withRegs [(0#4, 0xFF#8), (1#4, 0x0F#8), (VF, 0x05#8)] State.reset) 0x8013#16).map (regs [0#4, VF]) =
      some [0xF0#8, 0x05#8] := by decide +kernel
-- AL10: no signed overflow flag.
theorem test_addReg :
    (after (withRegs [(0#4, 0x7F#8), (1#4, 0x01#8), (VF, 0x01#8)] State.reset) 0x8014#16).map (regs [0#4, VF]) =
      some [0x80#8, 0x00#8] := by decide +kernel
-- AL12: the flag is written last, over the sum.
theorem test_addReg_VF :
    (after (withRegs [(VF, 0xFF#8), (1#4, 0x01#8)] State.reset) 0x8F14#16).map (regs [VF]) = some [0x01#8] := by
  decide +kernel
-- AL13: equal operands clear the flag.
theorem test_subReg_equal :
    (after (withRegs [(0#4, 0x03#8), (1#4, 0x03#8), (VF, 0x01#8)] State.reset) 0x8015#16).map (regs [0#4, VF]) =
      some [0x00#8, 0x00#8] := by decide +kernel
-- AL14.
theorem test_subReg :
    (after (withRegs [(0#4, 0x05#8), (1#4, 0x03#8)] State.reset) 0x8015#16).map (regs [0#4, VF]) = some [0x02#8, 0x01#8] := by
  decide +kernel
-- AL16: `V[5]` is not read.
theorem test_shr :
    (after (withRegs [(4#4, 0x05#8), (5#4, 0x80#8)] State.reset) 0x8456#16).map (regs [4#4, VF, 5#4]) =
      some [0x02#8, 0x01#8, 0x80#8] := by decide +kernel
-- AL17.
theorem test_shr_VF : (after (withRegs [(VF, 0x03#8)] State.reset) 0x8FF6#16).map (regs [VF]) = some [0x01#8] := by
  decide +kernel
-- AL18.
theorem test_subnReg_borrow :
    (after (withRegs [(0#4, 0x02#8), (1#4, 0x01#8)] State.reset) 0x8017#16).map (regs [0#4, VF]) = some [0xFF#8, 0x00#8] := by
  decide +kernel
-- AL19.
theorem test_subnReg :
    (after (withRegs [(0#4, 0x01#8), (1#4, 0x02#8)] State.reset) 0x8017#16).map (regs [0#4, VF]) = some [0x01#8, 0x01#8] := by
  decide +kernel
-- AL21.
theorem test_shl :
    (after (withRegs [(4#4, 0x81#8)] State.reset) 0x840E#16).map (regs [4#4, VF]) = some [0x02#8, 0x01#8] := by
  decide +kernel
-- AL23.
theorem test_shl_no_carry :
    (after (withRegs [(4#4, 0x40#8)] State.reset) 0x840E#16).map (regs [4#4, VF]) = some [0x80#8, 0x00#8] := by
  decide +kernel
-- AL24.
theorem test_rnd :
    (nextOf (stepWith 0xAB#8 (placeWord State.reset 0xC30F#16))).map (fun t => (readReg t 3#4, t.rndIn)) =
      some (0x0B#8, none) := by decide +kernel
-- 40_cycle.md R110: a step that does not read `rnd` drops it.
theorem test_rnd_dropped :
    (nextOf (stepWith 0xAB#8 (placeWord State.reset 0x6A05#16))).map (fun t => (t.rndIn, t.draws)) = some (none, 0) := by
  decide +kernel

/-! ### Index register, loads and stores -/

-- IM1.
theorem test_ldI : (after State.reset 0xA2F0#16).map (·.i) = some 0x02F0#16 := by decide +kernel
-- IM2: the register is not masked.
theorem test_addI :
    (after (withRegs [(1#4, 0x01#8)] (setIndex State.reset 0x0FFF#16)) 0xF11E#16).map (·.i) = some 0x1000#16 := by
  decide +kernel
-- IM3: it wraps at 16 bits and sets no flag.
theorem test_addI_wraps :
    (after (withRegs [(0#4, 0x01#8), (VF, 0x07#8)] (setIndex State.reset 0xFFFF#16)) 0xF01E#16).map
      (fun t => (t.i, readReg t VF)) = some (0x0000#16, 0x07#8) := by decide +kernel
-- IM5: only the low nibble selects the glyph.
theorem test_ldF : (after (withRegs [(2#4, 0x1A#8)] State.reset) 0xF229#16).map (·.i) = some 0x0032#16 := by
  decide +kernel
-- IM6.
theorem test_ldB :
    (after (withRegs [(0#4, 0xEA#8)] (setIndex State.reset 0x0300#16)) 0xF033#16).map
      (fun t => (bytes [0x300, 0x301, 0x302] t, t.i)) = some ([0x02#8, 0x03#8, 0x04#8], 0x0300#16) := by decide +kernel
-- IM8: the addresses wrap.
theorem test_ldB_wraps :
    (after (withRegs [(0#4, 0xFF#8)] (setIndex State.reset 0x0FFF#16)) 0xF033#16).map (bytes [0xFFF, 0x000, 0x001]) =
      some [0x02#8, 0x05#8, 0x05#8] := by decide +kernel
-- IM9: `I` and the byte after the range keep their values.
theorem test_storeRegs :
    (after (withRegs [(0#4, 0x01#8), (1#4, 0x02#8), (2#4, 0x03#8), (3#4, 0x09#8)] (setIndex State.reset 0x0300#16))
      0xF255#16).map (fun t => (bytes [0x300, 0x301, 0x302, 0x303] t, t.i)) =
      some ([0x01#8, 0x02#8, 0x03#8, 0x00#8], 0x0300#16) := by decide +kernel
-- IM11: the addresses wrap.
theorem test_storeRegs_wraps :
    (after (withRegs [(0#4, 0xAA#8), (1#4, 0xBB#8), (2#4, 0xCC#8)] (setIndex State.reset 0x0FFE#16)) 0xF255#16).map
      (bytes [0xFFE, 0xFFF, 0x000]) = some [0xAA#8, 0xBB#8, 0xCC#8] := by decide +kernel
-- IM12.
theorem test_loadRegs :
    (after (withRegs [(3#4, 0x09#8)] (withBytes [(0x300, 0x01#8), (0x301, 0x02#8), (0x302, 0x03#8)]
      (setIndex State.reset 0x0300#16))) 0xF265#16).map (regs [0#4, 1#4, 2#4, 3#4]) =
      some [0x01#8, 0x02#8, 0x03#8, 0x09#8] := by decide +kernel
-- IM14: the first byte of the font.
theorem test_loadRegs_font : (after State.reset 0xF065#16).map (regs [0#4]) = some [0xF0#8] := by decide +kernel

/-! ### Display -/

-- DR1.
theorem test_cls :
    (after { State.reset with fb := Vector.replicate 32 (BitVec.allOnes 64) } 0x00E0#16).map lit = some [] := by
  decide +kernel
-- E5, the second draw: the sprite C3 over its own pixels turns them off and reports a collision.
theorem test_drw_erases :
    (after { spriteAt300 0xC3#8 with fb := State.reset.fb.set 0 0b11000011#64 } 0xD011#16).map (fun t => (lit t, regs [VF] t)) =
      some ([], [0x01#8]) := by decide +kernel
-- DR7: VF gives the coordinates, which wrap (60 mod 32 is 28), and then receives the flag; bit 7 is the leftmost.
theorem test_drw_coordinates_in_VF :
    (after (withRegs [(VF, 0x3C#8)] State.reset) 0xDFF1#16).map (fun t => (lit t, regs [VF] t)) =
      some ([(28, 60), (28, 61), (28, 62), (28, 63)], [0x00#8]) := by decide +kernel

/-! ### Keypad and timers -/

-- KP1, KP2.
theorem test_skp :
    [0x0020#16, 0x0000#16].map (fun k => (after (withRegs [(0#4, 0x05#8)] (setKeypad State.reset k)) 0xE09E#16).map (·.pc)) =
      [some 0x0204#16, some 0x0202#16] := by decide +kernel
-- KP3: a value of 16 is a key not pressed.
theorem test_skp_16 :
    (after (withRegs [(0#4, 0x10#8)] (setKeypad State.reset 0xFFFF#16)) 0xE09E#16).map (·.pc) = some 0x0202#16 := by
  decide +kernel
-- KP4.
theorem test_sknp_16 :
    (after (withRegs [(0#4, 0x10#8)] (setKeypad State.reset 0xFFFF#16)) 0xE0A1#16).map (·.pc) = some 0x0204#16 := by
  decide +kernel
-- KP5, and a pressed key (R212).
theorem test_sknp :
    [0x0000#16, 0x0020#16].map (fun k => (after (withRegs [(0#4, 0x05#8)] (setKeypad State.reset k)) 0xE0A1#16).map (·.pc)) =
      [some 0x0204#16, some 0x0202#16] := by decide +kernel
-- KP6.
theorem test_ldFromDT : (after (setDT State.reset 0x3C#8) 0xF307#16).map (regs [3#4]) = some [0x3C#8] := by decide +kernel
-- KP7.
theorem test_ldToDT :
    (after (withRegs [(3#4, 0x3C#8)] State.reset) 0xF315#16).map (fun t => (t.dt, t.st)) = some (0x3C#8, 0x00#8) := by
  decide +kernel
-- KP8.
theorem test_ldToST :
    (after (withRegs [(3#4, 0x05#8)] State.reset) 0xF318#16).map (fun t => (t.dt, t.st, soundOn t)) =
      some (0x00#8, 0x05#8, true) := by decide +kernel
-- KP9.
theorem test_ldKey_waits : after State.reset 0xF50A#16 = some (placeWord State.reset 0xF50A#16) := by decide +kernel
-- KP10: the least key.
theorem test_ldKey :
    (after (setKeypad State.reset 0x0208#16) 0xF50A#16).map (fun t => (readReg t 5#4, t.pc)) = some (0x03#8, 0x0202#16) := by
  decide +kernel
-- TM1, TM2: a timer at 0 stays at 0.
theorem test_tick :
    [(0x02#8, 0x01#8), (0x00#8, 0x00#8)].map
      (fun p => (tick { State.reset with dt := p.1, st := p.2 }).dt.toNat * 256 +
        (tick { State.reset with dt := p.1, st := p.2 }).st.toNat) = [256, 0] := by decide
-- TM3: a tick acts while halted.
theorem test_tick_halted : (tick { haltedState with dt := 0x05#8 }).dt = 0x04#8 := by decide
-- TM6.
theorem test_tick_without_decay :
    tick { State.reset with dt := 0x05#8, config := { Config.hardware with timerDecay := false } } =
      { State.reset with dt := 0x05#8, config := { Config.hardware with timerDecay := false } } := rfl

/-! ### Reset and the host -/

-- HO1.
theorem test_reset :
    (nextOf (perform .reset haltedState)).map (fun t => (t.pc, t.halted, t.faultCause, bytes [0, 1, 4, 0x50] t)) =
      some (0x0200#16, false, 0#2, [0xF0#8, 0x90#8, 0xF0#8, 0x00#8]) := by decide +kernel
-- HO4.
theorem test_setKeys : (nextOf (perform (.setKeys 0x8001#16) State.reset)).map (·.keys) = some 0x8001#16 := by decide
-- HO5.
theorem test_readStatus : reply .readStatus haltedState = .status true 1#2 0x0200#16 false := rfl
-- HO7: a host write while halted.
theorem test_hostWrite_halted :
    (nextOf (perform (.hostWrite 0x300#12 0x11#8) haltedState)).map (fun t => (reply (.hostRead 0x300#12) t, t.halted)) =
      some (.byte 0x11#8, true) := by decide +kernel
-- TM4: the step, then the tick.
theorem test_step_before_tick :
    (nextOf (performTogether [.tick, .step 0x00#8] (placeWord (withRegs [(3#4, 0x05#8)] State.reset) 0xF315#16))).map (·.dt) =
      some 0x04#8 := by decide +kernel
-- 60_exceptions.md R245: the host must not present a tick and a key write together.
theorem test_together_refused :
    performTogether [.tick, .setKeys 0x0001#16] State.reset = .refused .presentedTogether := rfl
-- HO2 and 70_reset_and_hazards.md R263.
theorem test_loadProgram :
    (nextOf (loadProgram [0x6A, 0x05] State.reset)).bind (fun s => (nextOf (step s)).map (fun t => (readReg t 0xA#4, t.pc))) =
      some (0x05#8, 0x0202#16) := by decide +kernel
-- The host's placing of a word runs that word as the first instruction after reset.
theorem test_withFetchWord :
    (nextOf (step (State.reset.withFetchWord 16 0x6A05))).map (regs [0xA#4]) = some [0x05#8] := by decide +kernel

/-! ### Witnesses: for each statement with hypotheses, states and operands that meet them, at the edges of each clause -/

/-- A block at `p` with the word `w` there. -/
def at_ (p w : Word) : State := placeWord { State.reset with pc := p } w

theorem witness_EncodedInstructionDecodesToItself :
    (Instr.drw 0xF#4 0xF#4 0xF#4).wellFormed = true ∧ (Instr.jp 0xFFF#12).wellFormed = true ∧
      (Instr.rnd 0xF#4 0xFF#8).wellFormed = true ∧ (Instr.shl 0x0#4 0xF#4).wellFormed = true := by decide
theorem witness_DecodedWordEncodesBack :
    decodeWord 0x8FFE#16 = some (.shl 0xF#4 0xF#4) ∧ decodeWord 0x00E0#16 = some .cls := by decide
theorem witness_DecodingIsExact :
    opcodeTable[0]? = some ⟨"CLS", 0xFFFF#16, 0x00E0#16⟩ ∧ opcodeTable[33]? = some ⟨"LD_Vx___I", 0xF0FF#16, 0xF065#16⟩ ∧
      0xFF65#16 &&& 0xF0FF#16 = 0xF065#16 := by decide
theorem witness_DecodingIsExact_order : opcodeTable.reverse.Perm opcodeTable := List.reverse_perm _
theorem witness_StepRunsTheDecodedInstruction :
    (at_ 0x0200#16 0x6A05#16).halted = false ∧ decodeWord (nextWord (at_ 0x0200#16 0x6A05#16)) = some (.ldImm 0xA#4 0x05#8) ∧
      decodeWord (nextWord (at_ 0x0FFF#16 0x12F0#16)) = some (.jp 0x2F0#12) ∧
      decodeWord (nextWord (at_ 0xFFFF#16 0x00EE#16)) = some .ret := by decide +kernel
theorem witness_UnrecognisedWordOnlyAdvancesPc :
    (at_ 0x1000#16 0xF090#16).halted = false ∧ decodeWord (nextWord (at_ 0x1000#16 0xF090#16)) = none := by decide +kernel
theorem witness_HaltedBlockStaysHaltedUntilReset : haltedState.halted = true ∧ HostOp.tick ≠ .reset := by decide
theorem witness_FetchReducesPcModulo4096 :
    (0x1FFF#16).toNat % 4096 = (0x0FFF#16).toNat % 4096 ∧ (0x0FFF#16).toNat % 4096 = 4095 := by decide
theorem witness_NextFetchSeesAWrittenByte :
    Memory.wf State.reset.config.resetByte State.reset.mem = true ∧
      State.reset.pc.toNat % 4096 = (0x200#12).toNat ∧ (State.reset.pc.toNat + 1) % 4096 = (0x201#12).toNat ∧
      State.reset.pc.toNat % 4096 ≠ (0x202#12).toNat ∧ (State.reset.pc.toNat + 1) % 4096 ≠ (0x202#12).toNat := by decide
theorem witness_StepReadsRndAndTimersOnlyWhereNamed :
    (∀ x kk, decodeWord (nextWord (at_ 0x0200#16 0x1200#16)) ≠ some (.rnd x kk)) ∧
      (∀ x, decodeWord (nextWord (at_ 0x0200#16 0x1200#16)) ≠ some (.ldToST x)) ∧
      (∀ x, decodeWord (nextWord (at_ 0x0200#16 0x1200#16)) ≠ some (.ldToDT x)) ∧
      ∀ x, decodeWord (nextWord (at_ 0x0200#16 0x1200#16)) ≠ some (.ldFromDT x) := by
  rw [show decodeWord (nextWord (at_ 0x0200#16 0x1200#16)) = some (.jp 0x200#12) by decide +kernel]
  simp
theorem witness_StepWithRndMasksTheGivenByte :
    (at_ 0x0200#16 0xCF0F#16).halted = false ∧ (at_ 0x0200#16 0xCF0F#16).rndIn = none ∧
      decodeWord (nextWord (at_ 0x0200#16 0xCF0F#16)) = some (.rnd 0xF#4 0x0F#8) := by decide +kernel
theorem witness_RndCompletesOnAFreeByte :
    (presentRnd State.reset 0xAB#8).rndIn = some 0xAB#8 ∧ State.reset.rndIn = none := by decide
theorem witness_ReturnPopsOrUnderflows :
    (withSP 0x01#8).sp.toNat = (0 : Fin 16).val + 1 ∧ (withSP 0x10#8).sp.toNat = (15 : Fin 16).val + 1 ∧
      (withSP 0x00#8).sp.toNat = 0 := by decide
theorem witness_CallPushesOrOverflows :
    (withSP 0x00#8).sp.toNat = (0 : Fin 16).val ∧ (withSP 0x0F#8).sp.toNat = (15 : Fin 16).val ∧
      (withSP 0x10#8).sp.toNat = 16 := by decide
theorem witness_JumpSetsPc :
    (at_ 0x0200#16 0x1200#16).halted = false ∧
      decodeWord (nextWord (at_ 0x0200#16 0x1200#16)) = some (.jp 0x200#12) ∧
      (at_ 0x0200#16 0x1200#16).pc.toNat = (0x200#12).toNat := by decide +kernel
theorem witness_ReturnComesBackAfterItsCall : (withSP 0x0F#8).sp.toNat < 16 := by decide
theorem witness_OnlyAnIllegalStackPointerStops :
    16 < (withSP 0x11#8).sp.toNat ∧ exec .ret (withSP 0x11#8) = .fault .stackPointerOutOfRange ∧
      exec (.call 0x300#12) (withSP 0xFF#8) = .fault .stackPointerOutOfRange := ⟨by decide, rfl, rfl⟩
theorem witness_StaleStackSlotsAreNeverRead :
    SameButStaleSlots State.reset { State.reset with stack := Vector.replicate 16 0x0202#16 } ∧
      nextOf (exec (.call 0x300#12) State.reset) ≠ none := ⟨⟨rfl, fun j h => absurd h (by simp [State.reset, State.resetWith])⟩, by decide⟩
/-- The canonical form that the memory statements assume, of a memory that lists bytes at both ends of the space. -/
theorem witness_memory_in_canonical_form :
    Memory.wf (withBytes [(0xFFF, 0x12#8), (0, 0x00#8), (0x1200, 0x34#8)] State.reset).config.resetByte
      (withBytes [(0xFFF, 0x12#8), (0, 0x00#8), (0x1200, 0x34#8)] State.reset).mem = true := by decide +kernel
theorem witness_DecimalDigitsAreStoredAtI : (dataAddr 0x0FFF#16 0, dataAddr 0x0FFF#16 1, dataAddr 0x0FFF#16 2) = (4095, 0, 1) := by
  decide
theorem witness_RegisterDumpStoresV0ToVx : (0x0#4).toNat ≤ (0x0#4).toNat ∧ (0xF#4).toNat ≤ (0xF#4).toNat := by decide
theorem witness_RegisterLoadReadsV0ToVx : (0x3#4).toNat ≤ (0xF#4).toNat ∧ ¬ (0x3#4).toNat ≤ (0x2#4).toNat := by decide
theorem witness_LoadBringsBackTheDump :
    ((nextOf (exec (.storeRegs 0xF#4) (setIndex State.reset 0x0FFE#16))).map fun t =>
      (decide ((withRegs [(0#4, 0x55#8)] t).mem = t.mem), decide ((withRegs [(0#4, 0x55#8)] t).config = t.config),
        decide ((withRegs [(0#4, 0x55#8)] t).i = t.i))) = some (true, true, true) := by decide +kernel
theorem witness_DrawXorsTheSpriteAndReportsCollision :
    InSprite (spriteAt300 0x80#8) 0x00#8 0x00#8 0x0300#16 1 0 0 ∧ InSprite (spriteAt300 0x01#8) 0x3F#8 0x1F#8 0x0300#16 1 31 6 ∧
      ¬ InSprite (spriteAt300 0x80#8) 0x00#8 0x00#8 0x0300#16 0 0 0 ∧
      pixel (togglePixel State.reset.fb 0 0) 0 0 = true ∧ pixel State.reset.fb 0 0 = false :=
  ⟨⟨0, by decide, 0, by decide, by decide +kernel, by decide, by decide⟩,
    ⟨0, by decide, 7, by decide, by decide +kernel, by decide, by decide⟩,
    fun ⟨_, h, _⟩ => absurd h (Nat.not_lt_zero _), by decide +kernel, by decide +kernel⟩
theorem witness_DrawingTwiceErases : (0x0#4) ≠ VF ∧ (0xE#4) ≠ VF := by decide
theorem witness_KeySkipsTestTheKeyInVx :
    (readReg (withRegs [(0#4, 0x0F#8)] State.reset) 0#4).toNat = (15 : Fin 16).val ∧ (0x8000#16).getLsbD 15 = true ∧
      (0x7FFF#16).getLsbD 15 = false ∧ (readReg State.reset 0#4).toNat = (0 : Fin 16).val ∧
      16 ≤ (readReg (withRegs [(0#4, 0x10#8)] State.reset) 0#4).toNat := by decide
theorem witness_KeyWaitTakesTheLeastKeyOrRewinds :
    (0x8000#16).getLsbD 15 = true ∧ (∀ j < 15, (0x8000#16).getLsbD j = false) ∧ (0xFFFF#16).getLsbD 0 = true ∧
      ∀ j < 16, (0x0000#16).getLsbD j = false := by decide
theorem witness_KeyWaitRepeatsUntilAKey :
    (at_ 0x0200#16 0xF50A#16).halted = false ∧ (∀ j < 16, (at_ 0x0200#16 0xF50A#16).keys.getLsbD j = false) ∧
      decodeWord (nextWord (at_ 0x0200#16 0xF50A#16)) = some (.ldKey 5#4) := by decide +kernel
theorem witness_TickCountsDownToZero :
    State.reset.config.timerDecay = true ∧ (State.resetWith { Config.hardware with timerDecay := false }).config.timerDecay = false := by
  decide
/-- A schedule of ticks alone leaves both timers to the ticks. -/
theorem ticks_leave_the_timers (writer : RegIdx → Instr) (n : Nat) (s : State) :
    LeavesToTicks writer (List.replicate n .tick) s := by
  induction n generalizing s with
  | zero => trivial
  | succ n ih => exact ⟨(nomatch ·), (fun _ h => nomatch h), fun t _ => ih t⟩
theorem witness_TimerReachesZeroAfterItsTicks :
    State.reset.config.timerDecay = true ∧
      performAll (List.replicate 2 .tick) { State.reset with dt := 0x01#8, st := 0x02#8 } = .next State.reset ∧
      LeavesToTicks .ldToDT (List.replicate 2 .tick) { State.reset with dt := 0x01#8, st := 0x02#8 } ∧
      LeavesToTicks .ldToST (List.replicate 2 .tick) { State.reset with dt := 0x01#8, st := 0x02#8 } :=
  ⟨rfl, rfl, ticks_leave_the_timers _ _ _, ticks_leave_the_timers _ _ _⟩
theorem witness_OnlyDestinationsAndFlagsChange :
    nextOf (exec (.ldImm VF 0x05#8) State.reset) = some (writeReg State.reset VF 0x05#8) ∧
      readReg (writeReg State.reset VF 0x05#8) VF ≠ readReg State.reset VF := ⟨rfl, by decide⟩
theorem witness_EachStorageHasItsWriters :
    (nextOf (exec (.ldI 0x300#12) State.reset)).map (·.i) ≠ some State.reset.i ∧
      (nextOf (exec (.call 0x300#12) State.reset)).map (·.sp) ≠ some State.reset.sp ∧
      (nextOf (exec (.ldToDT 0#4) (withRegs [(0#4, 0x05#8)] State.reset))).map (·.dt) ≠ some State.reset.dt ∧
      (nextOf (exec (.ldToST 0#4) (withRegs [(0#4, 0x05#8)] State.reset))).map (·.st) ≠ some State.reset.st ∧
      (nextOf (exec (.drw 0#4 0#4 1#4) State.reset)).map (·.fb) ≠ some State.reset.fb ∧
      (nextOf (exec (.storeRegs 0#4) State.reset)).map (·.mem) ≠ some State.reset.mem ∧
      (nextOf (exec .ret State.reset)).map (·.halted) ≠ some State.reset.halted ∧
      (nextOf (exec (.jp 0x300#12) State.reset)).map (·.pc) ≠ some State.reset.pc := by decide +kernel
theorem witness_OnlyStackFaultsHaltAndTheyArePrecise :
    (at_ 0x0200#16 0x00EE#16).halted = false ∧ (nextOf (step (at_ 0x0200#16 0x00EE#16))).map (·.halted) = some true ∧
      (nextOf (step (placeWord (withSP 0x10#8) 0x2300#16))).map (·.halted) = some true := by decide +kernel
theorem witness_ReadsAnswerTheDisplayAndTheStatus : 64 * (31 : Fin 32).val + (63 : Fin 64).val < 2048 := by decide
theorem witness_ProgramLoadingPlacesTheImage :
    (List.replicate 3584 0x12#8).length ≤ 3584 ∧ 3584 < (List.replicate 3585 0x12#8).length ∧
      Memory.wf State.reset.config.resetByte State.reset.mem = true := by
  simp only [List.length_replicate]; exact ⟨le_refl _, by omega, rfl⟩
theorem witness_StepComesBeforeTickAndResetAlone : HostOp.reset ∈ [HostOp.tick, .reset, .step 0x00#8] := by decide
/-- The block halted by an overflow meets the invariant, so the hypothesis of the invariant statements is met by a state
other than reset; its next step answers a next state. -/
theorem witness_EveryStepKeepsTheInvariant : Inv haltedState ∧ step haltedState = .next haltedState :=
  ⟨⟨rfl, by decide, by decide, by decide, by decide, by decide, by decide, by decide⟩, rfl⟩
/-- A running block with a full stack meets it too. -/
theorem witness_EveryScheduleCompletesAndKeepsTheInvariant : Inv (withSP 0x10#8) :=
  ⟨rfl, by decide, by decide, by decide, by decide, by decide, by decide, by decide⟩
theorem witness_RunThatEndsUnhaltedWasSafe :
    HostOp.reset ∉ [HostOp.step 0x00#8, .tick] ∧
      (nextOf (performAll [.step 0x00#8, .tick] State.reset)).map (·.halted) = some false := by decide +kernel

end Sys2Proof.Tests
end

section
/-! The fetch and the step in the words of the statements of 40_cycle.md. -/

namespace Sys2Proof.Machine

/-- 40_cycle.md R101 with 20_memory.md R54: the fetch reduces both byte addresses modulo 4096, through `memRead`. -/
theorem fetchWord_eq_nextWord (s : State) : fetchWord s = nextWord s := rfl

/-- 40_cycle.md R102: the fetch's advance writes `pc` alone. -/
theorem advance_eq (s : State) : advance s = { s with pc := s.pc + 2#16 } := rfl

/-- The branch of a step that runs an instruction (40_cycle.md R108). -/
theorem step_of_decodeWord_eq_some {s : State} {i : Instr} (hs : s.halted = false)
    (hi : decodeWord (fetchWord s) = some i) : step s = exec i (advance s) := by
  simp [step, hs, hi]

/-- Settles O6: the instruction branch of `step`, its fetch and its advance written out in the statement's terms. -/
theorem stepRunsTheDecodedInstruction : Obligations.StepRunsTheDecodedInstruction := by
  intro s i hs hi
  rw [← fetchWord_eq_nextWord] at hi
  rw [step_of_decodeWord_eq_some hs hi, advance_eq]

end Sys2Proof.Machine
end

section
/-! Control transfer: every jump and skip is one write of `pc`, whose frame is proved once. -/

namespace Sys2Proof.Machine

/-! ### A write of `pc` and its frame -/

theorem onlyPc_jump (s : State) (a : Word) : OnlyPc s (jump s a) :=
  ⟨readReg_congr rfl, rfl, ⟨rfl, readSlot_congr rfl⟩, ⟨rfl, rfl⟩, fun _ _ => rfl, memRead_congr rfl rfl, ⟨rfl, rfl, rfl⟩,
    ⟨rfl, rfl⟩, ⟨rfl, rfl⟩⟩

theorem movesPcTo_of_exec_eq_jump {i : Instr} {s : State} {a : Word} (h : exec i s = .next (jump s a)) : MovesPcTo i s a :=
  ⟨_, h, jump_pc s a, onlyPc_jump s a⟩

theorem movesPcTo_of_exec_eq_skipIf {i : Instr} {s : State} {c : Bool} (h : exec i s = .next (skipIf s c)) :
    MovesPcTo i s (if c then s.pc + 2#16 else s.pc) :=
  movesPcTo_of_exec_eq_jump (h.trans (congrArg _ (skipIf_eq s c)))

/-- Jumping to where the fetch started undoes its advance. -/
theorem jump_advance_pc (s : State) : jump (advance s) s.pc = s := rfl

/-! ### `JP nnn` -/

/-- 41_control_flow.md R122, with the zero extension written as a number. -/
theorem exec_jp (nnn : Addr) (s : State) : exec (.jp nnn) s = .next (jump s (BitVec.ofNat 16 nnn.toNat)) := by
  rw [BitVec.ofNat_toNat]
  rfl

/-- A step that runs a `JP` to its own address answers the state it started from. -/
theorem step_of_jp_to_pc {s : State} {nnn : Addr} (hs : s.halted = false)
    (hi : decodeWord (fetchWord s) = some (.jp nnn)) (hpc : s.pc.toNat = nnn.toNat) : step s = .next s := by
  have htarget : BitVec.ofNat 16 nnn.toNat = s.pc := by rw [← hpc, BitVec.ofNat_toNat, BitVec.setWidth_eq]
  rw [step_of_decodeWord_eq_some hs hi, exec_jp, htarget, jump_advance_pc]

/-- A state that a machine's step leaves as it is stays so for any number of steps. -/
theorem run_of_step_eq_self {M : Host.Core} {s : M.State} (h : M.step s = .next s) (n : Nat) : M.run n s = .next s := by
  induction n with
  | zero => rfl
  | succ n ih => simpa only [Host.Core.run, h] using ih

/-- Settles O23: the jump is one write of `pc`, and a jump to itself is a fixed point of `step`, hence of every run. -/
theorem jumpSetsPc : Obligations.JumpSetsPc := by
  refine ⟨fun s nnn => movesPcTo_of_exec_eq_jump (exec_jp nnn s), fun s nnn n hs hi hpc => ?_⟩
  rw [← fetchWord_eq_nextWord] at hi
  exact run_of_step_eq_self (step_of_jp_to_pc hs hi hpc) n

/-! ### The register skips -/

/-- A skip whose condition is that two bytes are equal (41_control_flow.md R124, R126). -/
theorem movesPcTo_of_skipIf_beq {i : Instr} {s : State} {a b : Byte} (h : exec i s = .next (skipIf s (a == b))) :
    MovesPcTo i s (if a = b then s.pc + 2#16 else s.pc) := by
  simpa only [beq_iff_eq] using movesPcTo_of_exec_eq_skipIf h

/-- A skip whose condition is that two bytes differ (41_control_flow.md R125, R127). -/
theorem movesPcTo_of_skipIf_bne {i : Instr} {s : State} {a b : Byte} (h : exec i s = .next (skipIf s (a != b))) :
    MovesPcTo i s (if a = b then s.pc else s.pc + 2#16) := by
  simpa only [bne_iff_ne, ite_not] using movesPcTo_of_exec_eq_skipIf h

/-- Settles O25: each of the four is a `skipIf` on the equality or the difference of the two bytes it compares. -/
theorem skipsTestRegisters : Obligations.SkipsTestRegisters := fun _ _ _ _ =>
  ⟨movesPcTo_of_skipIf_beq rfl, movesPcTo_of_skipIf_bne rfl, movesPcTo_of_skipIf_beq rfl, movesPcTo_of_skipIf_bne rfl⟩

end Sys2Proof.Machine
end

section
/-! Register loads and 8-bit arithmetic: a write of `V[x]`, alone or with its flag, whose frame is proved once. -/

namespace Sys2Proof.Machine

/-! ### A write of the register file and its frame -/

/-- When only the register file is replaced, the frame is what the registers read. -/
theorem onlyRegs_of_sameRegsBut {P : RegIdx → Prop} {s : State} {v : Vector Byte 16}
    (h : SameRegsBut P s { s with v := v }) : OnlyRegs P s { s with v := v } :=
  ⟨⟨h, rfl, rfl, ⟨rfl, readSlot_congr rfl⟩, ⟨rfl, rfl⟩, fun _ _ => rfl, memRead_congr rfl rfl, ⟨rfl, rfl, rfl⟩,
    ⟨rfl, rfl⟩⟩, ⟨rfl, rfl⟩⟩

theorem onlyRegs_writeReg (s : State) (x : RegIdx) (a : Byte) : OnlyRegs (· = x) s (writeReg s x a) :=
  onlyRegs_of_sameRegsBut fun r hr => (readReg_writeReg s x r a).trans (if_neg hr)

theorem onlyRegs_writeRegFlag (s : State) (x : RegIdx) (a : Byte) (f : Bool) :
    OnlyRegs (fun r => r = x ∨ r = VF) s (writeRegFlag s x a f) :=
  onlyRegs_of_sameRegsBut fun r hr => by
    obtain ⟨hx, hVF⟩ := not_or.mp hr
    exact (readReg_writeRegFlag s x r a f).trans ((if_neg hVF).trans (if_neg hx))

theorem writes_of_exec_eq_writeReg {i : Instr} {x : RegIdx} {s : State} {a : Byte}
    (h : exec i s = .next (writeReg s x a)) : Writes i x s a :=
  ⟨_, h, readReg_writeReg_self s x a, onlyRegs_writeReg s x a⟩

/-- The flag is written last (42_alu.md R140 (c)), so VF holds it for every `x`, and `V[x]` the result when it is not VF. -/
theorem writesWithFlag_of_exec_eq_writeRegFlag {i : Instr} {x : RegIdx} {s : State} {a : Byte} {f : Bool}
    (h : exec i s = .next (writeRegFlag s x a f)) : WritesWithFlag i x s a (flagByte f) := by
  refine ⟨_, h, ?_, fun hx => ?_, onlyRegs_writeRegFlag s x a f⟩
  · rw [readReg_writeRegFlag, if_pos rfl]
  · rw [readReg_writeRegFlag, if_neg hx, if_pos rfl]

/-! ### 8-bit sums, differences and their flags as numbers -/

theorem byte_add_eq_ofNat (a b : Byte) : a + b = BitVec.ofNat 8 ((a.toNat + b.toNat) % 256) := by
  apply BitVec.eq_of_toNat_eq
  simp

theorem byte_sub_eq_ofNat (a b : Byte) : a - b = BitVec.ofNat 8 ((256 + a.toNat - b.toNat) % 256) := by
  apply BitVec.eq_of_toNat_eq
  have hb := b.isLt
  rw [BitVec.toNat_sub, BitVec.toNat_ofNat]
  omega

theorem flagByte_carryOut (a b : Byte) : flagByte (carryOut a b) = if a.toNat + b.toNat ≥ 256 then 1#8 else 0#8 := by
  simp only [flagByte, carryOut, decide_eq_true_eq, ge_iff_le]

theorem flagByte_greater (a b : Byte) : flagByte (greater a b) = if a.toNat > b.toNat then 1#8 else 0#8 := by
  simp only [flagByte, greater, decide_eq_true_eq, gt_iff_lt]

/-- The one form of SUB and SUBN, which differ in which operand is the minuend `a` (42_alu.md R148, R150). -/
theorem writesWithFlag_of_exec_eq_sub {i : Instr} {x : RegIdx} {s : State} {a b : Byte}
    (h : exec i s = .next (writeRegFlag s x (a - b) (greater a b))) :
    WritesWithFlag i x s (BitVec.ofNat 8 ((256 + a.toNat - b.toNat) % 256)) (if a.toNat > b.toNat then 1#8 else 0#8) := by
  rw [← byte_sub_eq_ofNat, ← flagByte_greater]
  exact writesWithFlag_of_exec_eq_writeRegFlag h

/-! ### The statements -/

/-- Settles O13: each of the three is one `writeReg`; the add wraps because bytes do. -/
theorem registerLoadsWriteOnlyVx : Obligations.RegisterLoadsWriteOnlyVx := by
  intro s x y kk
  rw [← byte_add_eq_ofNat]
  exact ⟨writes_of_exec_eq_writeReg rfl, writes_of_exec_eq_writeReg rfl, writes_of_exec_eq_writeReg rfl⟩

/-- Settles O15: one `writeRegFlag`, of the byte sum and of the carry of the sum before truncation. -/
theorem addSetsCarry : Obligations.AddSetsCarry := by
  intro s x y
  rw [← byte_add_eq_ofNat, ← flagByte_carryOut]
  exact writesWithFlag_of_exec_eq_writeRegFlag rfl

/-- Settles O16: the minuend is `V[x]`. -/
theorem subSetsStrictlyGreater : Obligations.SubSetsStrictlyGreater := fun _ _ _ => writesWithFlag_of_exec_eq_sub rfl

/-- Settles O17: the minuend is `V[y]`. -/
theorem subnSetsStrictlyGreater : Obligations.SubnSetsStrictlyGreater := fun _ _ _ => writesWithFlag_of_exec_eq_sub rfl

end Sys2Proof.Machine
end

section
/-! Index register loads: each is one write of `I`, whose frame is proved once. -/

namespace Sys2Proof.Machine

/-! ### A write of `I` and its frame -/

theorem onlyIndex_setIndex (s : State) (a : Word) : OnlyIndex s (setIndex s a) :=
  ⟨readReg_setIndex s a, rfl, ⟨rfl, readSlot_congr rfl⟩, ⟨rfl, rfl⟩, fun _ _ => rfl, memRead_setIndex s a, ⟨rfl, rfl, rfl⟩,
    ⟨rfl, rfl⟩, ⟨rfl, rfl⟩⟩

theorem writesIndex_of_exec_eq_setIndex {i : Instr} {s : State} {a : Word} (h : exec i s = .next (setIndex s a)) :
    WritesIndex i s a :=
  ⟨_, h, setIndex_i s a, onlyIndex_setIndex s a⟩

/-! ### The values loaded, as numbers -/

/-- `zext_16` of 00_scope.md R10 keeps the number. -/
theorem zext16_eq_ofNat {w : Nat} (a : BitVec w) : zext16 a = BitVec.ofNat 16 a.toNat := (BitVec.ofNat_toNat 16 a).symm

/-- The glyph address of 43_index_memory.md R173: the extracted bits 3 to 0 are the byte modulo 16. -/
theorem glyphAddr_eq_ofNat (a : Byte) : glyphAddr a = BitVec.ofNat 16 (a.toNat % 16 * 5) := by
  have hnibble : (a.extractLsb' 0 4).toNat = a.toNat % 16 := by
    rw [BitVec.extractLsb'_toNat, Nat.shiftRight_zero]
  rw [glyphAddr, zext16_eq_ofNat, hnibble, BitVec.ofNat_mul]

/-! ### The statement -/

/-- Settles O29: each load is one `setIndex`, of `zext16 nnn` and of the glyph address of `V[x]`. -/
theorem indexLoadsWriteOnlyI : Obligations.IndexLoadsWriteOnlyI := by
  intro s x nnn
  rw [← zext16_eq_ofNat, ← glyphAddr_eq_ofNat]
  exact ⟨writesIndex_of_exec_eq_setIndex rfl, writesIndex_of_exec_eq_setIndex rfl⟩

end Sys2Proof.Machine
end

section
/-! Clearing the display: one write of the frame buffer, whose frame is proved once. -/

namespace Sys2Proof.Machine

/-! ### A write of the frame buffer and its frame -/

theorem sameRegs_setFB (s : State) (fb : FrameBuffer) : SameRegs s (setFB s fb) := readReg_setFB s fb

theorem onlyDisplayAndVF_setFB (s : State) (fb : FrameBuffer) : OnlyDisplayAndVF s (setFB s fb) :=
  ⟨fun r _ => sameRegs_setFB s fb r, rfl, rfl, ⟨rfl, readSlot_congr rfl⟩, ⟨rfl, rfl⟩, memRead_setFB s fb,
    ⟨rfl, rfl, rfl⟩, ⟨rfl, rfl⟩, ⟨rfl, rfl⟩⟩

/-! ### The statement -/

/-- 44_display.md R191: CLS is one write of the display, of the cleared one. -/
theorem exec_cls (s : State) : exec .cls s = .next (setFB s (Vector.replicate 32 0#64)) := rfl

/-- Settles O35: the display written has no pixel set, and a write of the frame buffer keeps everything else. -/
theorem clearDisplayClearsEveryPixel : Obligations.ClearDisplayClearsEveryPixel := fun s =>
  ⟨_, exec_cls s, pixel_clear, onlyDisplayAndVF_setFB s _, sameRegs_setFB s _⟩

end Sys2Proof.Machine
end

section
/-! The decoder and the encoder: a word is put together from its fields, so decoding and encoding undo each other; and the
fields that select an instruction are those that the masks of the opcode table keep. -/

namespace Sys2Proof

/-! ### A word from its fields -/

theorem formatA_fieldsOf (w : Word) : formatA (fieldsOf w).c (fieldsOf w).nnn = w :=
  (BitVec.extractLsb'_append_extractLsb'_eq_extractLsb' rfl).trans BitVec.extractLsb'_eq_self

theorem formatXKK_fieldsOf (w : Word) : formatXKK (fieldsOf w).c (fieldsOf w).x (fieldsOf w).kk = w := by
  have haddr : (fieldsOf w).x ++ (fieldsOf w).kk = (fieldsOf w).nnn :=
    BitVec.extractLsb'_append_extractLsb'_eq_extractLsb' rfl
  rw [formatXKK, haddr]
  exact formatA_fieldsOf w

theorem formatXYN_fieldsOf (w : Word) :
    formatXYN (fieldsOf w).c (fieldsOf w).x (fieldsOf w).y (fieldsOf w).n = w := by
  have hbyte : (fieldsOf w).y ++ (fieldsOf w).n = (fieldsOf w).kk :=
    BitVec.extractLsb'_append_extractLsb'_eq_extractLsb' rfl
  rw [formatXYN, hbyte]
  exact formatXKK_fieldsOf w

/-! ### Decoding undoes encoding -/

theorem decodeWord_encode (i : Instr) : decodeWord (encode i) = some i := by
  cases i with
  | cls => rfl
  | ret => rfl
  | _ => simp [encode, decodeWord, decode8, decodeE, decodeF]

theorem decode_encodeBytes_append (i : Instr) (rest : List Byte) : decode (encodeBytes i ++ rest) = .ok (i, rest) := by
  simp [encodeBytes, decode, decodeWord_encode]

/-- Settles O1: the decoder reads back the category and the operands that the encoder's format put in the word. -/
theorem encodedInstructionDecodesToItself : Obligations.EncodedInstructionDecodesToItself :=
  fun i _ => ⟨decodeWord_encode i, decode_encodeBytes_append i⟩

/-! ### Encoding undoes decoding -/

/-- A word of format XKK whose category is known. -/
theorem formatXKK_of_c {w : Word} {c : Nibble} (hc : (fieldsOf w).c = c) :
    formatXKK c (fieldsOf w).x (fieldsOf w).kk = w := by rw [← hc, formatXKK_fieldsOf]

theorem formatA_of_c {w : Word} {c : Nibble} (hc : (fieldsOf w).c = c) : formatA c (fieldsOf w).nnn = w := by
  rw [← hc, formatA_fieldsOf]

theorem formatXOP_of_c_kk {w : Word} {c : Nibble} {kk : Byte} (hc : (fieldsOf w).c = c) (hkk : (fieldsOf w).kk = kk) :
    formatXKK c (fieldsOf w).x kk = w := by rw [← hc, ← hkk, formatXKK_fieldsOf]

theorem formatXY_of_c_n {w : Word} {c n : Nibble} (hc : (fieldsOf w).c = c) (hn : (fieldsOf w).n = n) :
    formatXYN c (fieldsOf w).x (fieldsOf w).y n = w := by rw [← hc, ← hn, formatXYN_fieldsOf]

theorem encode_of_decode0 {w : Word} {i : Instr} (h : decode0 w = some i) : encode i = w := by
  unfold decode0 at h
  split_ifs at h with hcls hret <;> cases h
  · exact hcls.symm
  · exact hret.symm

theorem encode_of_decode8 {w : Word} {i : Instr} (hc : (fieldsOf w).c = 0x8#4) (h : decode8 (fieldsOf w) = some i) :
    encode i = w := by
  unfold decode8 at h
  split at h <;> cases h <;> exact formatXY_of_c_n hc (BitVec.eq_of_toNat_eq ‹_›)

theorem encode_of_decodeE {w : Word} {i : Instr} (hc : (fieldsOf w).c = 0xE#4) (h : decodeE (fieldsOf w) = some i) :
    encode i = w := by
  unfold decodeE at h
  split at h <;> cases h <;> exact formatXOP_of_c_kk hc (BitVec.eq_of_toNat_eq ‹_›)

theorem encode_of_decodeF {w : Word} {i : Instr} (hc : (fieldsOf w).c = 0xF#4) (h : decodeF (fieldsOf w) = some i) :
    encode i = w := by
  unfold decodeF at h
  split at h <;> cases h <;> exact formatXOP_of_c_kk hc (BitVec.eq_of_toNat_eq ‹_›)

/-- The word a decoded instruction stands for, by the category that selected it (30_encoding.md R85). -/
theorem encode_of_decodeWord {w : Word} {i : Instr} (h : decodeWord w = some i) : encode i = w := by
  have hformat (c : Nibble) (hc : (fieldsOf w).c.toNat = c.toNat) : (fieldsOf w).c = c := BitVec.eq_of_toNat_eq hc
  simp only [decodeWord] at h
  split at h
  case h_1 => exact encode_of_decode0 h
  case h_6 hc | h_10 hc =>
    split_ifs at h with hn
    cases h
    exact formatXY_of_c_n (hformat _ hc) hn
  case h_9 hc => exact encode_of_decode8 (hformat _ hc) h
  case h_15 hc => exact encode_of_decodeE (hformat _ hc) h
  case h_16 =>
    have hlt := (fieldsOf w).c.isLt
    simp only [imp_false] at *
    exact encode_of_decodeF (hformat 0xF#4 (show _ = 15 by omega)) h
  case h_2 hc | h_3 hc | h_11 hc | h_12 hc => cases h; exact formatA_of_c (hformat _ hc)
  case h_4 hc | h_5 hc | h_7 hc | h_8 hc | h_13 hc => cases h; exact formatXKK_of_c (hformat _ hc)
  case h_14 hc => cases h; rw [encode, ← hformat 0xD#4 hc, formatXYN_fieldsOf]

/-- Settles O2: decoding keeps every field of the word, and its fields put the word together again. -/
theorem decodedWordEncodesBack : Obligations.DecodedWordEncodesBack := fun _ _ => encode_of_decodeWord

/-! ### The words that decode to nothing -/

theorem decode0_eq_none_iff {w : Word} : decode0 w = none ↔ w ≠ 0x00E0#16 ∧ w ≠ 0x00EE#16 := by
  unfold decode0
  split_ifs <;> simp_all

theorem decode8_eq_none_iff {f : Fields} :
    decode8 f = none ↔ f.n.toNat ∈ [0x8, 0x9, 0xA, 0xB, 0xC, 0xD, 0xF] := by
  have hlt := f.n.isLt
  unfold decode8
  split
  case h_10 =>
    simp only [imp_false, List.mem_cons, List.not_mem_nil, or_false, true_iff] at *
    omega
  all_goals simp [*]

theorem decodeE_eq_none_iff {f : Fields} : decodeE f = none ↔ f.kk.toNat ∉ [0x9E, 0xA1] := by
  unfold decodeE
  split <;> simp_all

theorem decodeF_eq_none_iff {f : Fields} :
    decodeF f = none ↔ f.kk.toNat ∉ [0x07, 0x0A, 0x15, 0x18, 0x1E, 0x29, 0x33, 0x55, 0x65] := by
  unfold decodeF
  split <;> simp_all

/-- The list of 30_encoding.md R87, by the fields that select (R85). -/
theorem decodeWord_eq_none_iff {w : Word} : decodeWord w = none ↔
    ((fieldsOf w).c.toNat = 0x0 ∧ w ≠ 0x00E0#16 ∧ w ≠ 0x00EE#16) ∨
    ((fieldsOf w).c.toNat = 0x5 ∧ (fieldsOf w).n.toNat ≠ 0) ∨
    ((fieldsOf w).c.toNat = 0x8 ∧ (fieldsOf w).n.toNat ∈ [0x8, 0x9, 0xA, 0xB, 0xC, 0xD, 0xF]) ∨
    ((fieldsOf w).c.toNat = 0x9 ∧ (fieldsOf w).n.toNat ≠ 0) ∨
    ((fieldsOf w).c.toNat = 0xE ∧ (fieldsOf w).kk.toNat ∉ [0x9E, 0xA1]) ∨
    ((fieldsOf w).c.toNat = 0xF ∧
      (fieldsOf w).kk.toNat ∉ [0x07, 0x0A, 0x15, 0x18, 0x1E, 0x29, 0x33, 0x55, 0x65]) := by
  have hn : (fieldsOf w).n = 0x0#4 ↔ (fieldsOf w).n.toNat = 0 := BitVec.toNat_inj.symm
  simp only [decodeWord, ← decode0_eq_none_iff, ← decode8_eq_none_iff, ← decodeE_eq_none_iff, ← decodeF_eq_none_iff]
  split
  case h_16 =>
    have hc : (fieldsOf w).c.toNat = 15 := by
      have hlt := (fieldsOf w).c.isLt
      simp only [imp_false] at *
      omega
    simp [hc]
  all_goals simp [*]

theorem fieldsOf_c_toNat (w : Word) : (fieldsOf w).c.toNat = w.toNat / 4096 := by
  have hlt := w.isLt
  simp only [fieldsOf, BitVec.extractLsb'_toNat, Nat.shiftRight_eq_div_pow]
  omega

theorem fieldsOf_n_toNat (w : Word) : (fieldsOf w).n.toNat = w.toNat % 16 := by simp [fieldsOf]

theorem fieldsOf_kk_toNat (w : Word) : (fieldsOf w).kk.toNat = w.toNat % 256 := by simp [fieldsOf]

/-- Settles O4: the three selecting fields, read as the quotient and the remainders of the word. -/
theorem unrecognisedWordsAreTheListed : Obligations.UnrecognisedWordsAreTheListed := by
  intro w
  rw [decodeWord_eq_none_iff, fieldsOf_c_toNat, fieldsOf_n_toNat, fieldsOf_kk_toNat]

/-! ### The rows of the opcode table -/

/-! A mask acts on each field of a word by itself. -/

theorem fieldsOf_and_c (w m : Word) : (fieldsOf (w &&& m)).c = (fieldsOf w).c &&& (fieldsOf m).c := BitVec.extractLsb'_and

theorem fieldsOf_and_n (w m : Word) : (fieldsOf (w &&& m)).n = (fieldsOf w).n &&& (fieldsOf m).n := BitVec.extractLsb'_and

theorem fieldsOf_and_kk (w m : Word) : (fieldsOf (w &&& m)).kk = (fieldsOf w).kk &&& (fieldsOf m).kk :=
  BitVec.extractLsb'_and

/-- Two rows that one word can select agree on the bits that both masks keep. -/
theorem pattern_and_mask_of_selects {w m p m' p' : Word} (h : w &&& m = p) (h' : w &&& m' = p') :
    p &&& m' = p' &&& m := by
  rw [← h, ← h', BitVec.and_assoc, BitVec.and_assoc, BitVec.and_comm m]

/-- No two rows of the table agree on the bits that both masks keep (30_encoding.md R86). -/
theorem opcodeTable_disjoint : ∀ j k : Fin opcodeTable.length, opcodeTable[j].pattern &&& opcodeTable[k].mask =
    opcodeTable[k].pattern &&& opcodeTable[j].mask → j = k := by decide +kernel

theorem row_unique {w : Word} {j k : Nat} {q r : OpcodeRow} (hq : opcodeTable[j]? = some q)
    (hr : opcodeTable[k]? = some r) (hjq : w &&& q.mask = q.pattern) (hkr : w &&& r.mask = r.pattern) : j = k := by
  obtain ⟨hj, rfl⟩ := List.getElem?_eq_some_iff.1 hq
  obtain ⟨hk, rfl⟩ := List.getElem?_eq_some_iff.1 hr
  exact congrArg Fin.val (opcodeTable_disjoint ⟨j, hj⟩ ⟨k, hk⟩ (pattern_and_mask_of_selects hjq hkr))

/-- Each row's pattern is a word that decodes, and its mask keeps the fields that select in its category
(30_encoding.md R85, R90). -/
theorem opcodeTable_masks : ∀ r ∈ opcodeTable, decodeWord r.pattern ≠ none ∧ (fieldsOf r.mask).c = BitVec.allOnes 4 ∧
    ((fieldsOf r.pattern).c.toNat = 0x0 → r.mask = BitVec.allOnes 16) ∧
    ((fieldsOf r.pattern).c.toNat ∈ [0x5, 0x8, 0x9] → (fieldsOf r.mask).n = BitVec.allOnes 4) ∧
    ((fieldsOf r.pattern).c.toNat ∈ [0xE, 0xF] → (fieldsOf r.mask).kk = BitVec.allOnes 8) := by decide

/-- A word that selects a row is recognised: it agrees with the row's pattern on the fields that select. -/
theorem decodeWord_ne_none_of_selects {w : Word} {r : OpcodeRow} (hr : r ∈ opcodeTable) (h : w &&& r.mask = r.pattern) :
    decodeWord w ≠ none := by
  obtain ⟨hp, hmaskC, hwhole, hmaskN, hmaskKK⟩ := opcodeTable_masks r hr
  have hc : (fieldsOf w).c = (fieldsOf r.pattern).c := by
    rw [← h, fieldsOf_and_c, hmaskC, BitVec.and_allOnes]
  have hn (hcat : (fieldsOf w).c.toNat ∈ [0x5, 0x8, 0x9]) : (fieldsOf w).n = (fieldsOf r.pattern).n := by
    rw [← h, fieldsOf_and_n, hmaskN (hc ▸ hcat), BitVec.and_allOnes]
  have hkk (hcat : (fieldsOf w).c.toNat ∈ [0xE, 0xF]) : (fieldsOf w).kk = (fieldsOf r.pattern).kk := by
    rw [← h, fieldsOf_and_kk, hmaskKK (hc ▸ hcat), BitVec.and_allOnes]
  refine fun hnone => hp ?_
  rw [decodeWord_eq_none_iff] at hnone ⊢
  rw [← hc]
  obtain ⟨h0, hw⟩ | ⟨h5, hw⟩ | ⟨h8, hw⟩ | ⟨h9, hw⟩ | ⟨hE, hw⟩ | ⟨hF, hw⟩ := hnone
  · rw [← h, hwhole (hc ▸ h0), BitVec.and_allOnes]
    exact .inl ⟨h0, hw⟩
  · exact .inr (.inl ⟨h5, hn (by simp [h5]) ▸ hw⟩)
  · exact .inr (.inr (.inl ⟨h8, hn (by simp [h8]) ▸ hw⟩))
  · exact .inr (.inr (.inr (.inl ⟨h9, hn (by simp [h9]) ▸ hw⟩)))
  · exact .inr (.inr (.inr (.inr (.inl ⟨hE, hkk (by simp [hE]) ▸ hw⟩))))
  · exact .inr (.inr (.inr (.inr (.inr ⟨hF, hkk (by simp [hF]) ▸ hw⟩))))

/-- The word of an instruction selects the instruction's row (30_encoding.md R82, R90). -/
theorem selects_encode : (i : Instr) → Laws.EncodedWord.Statement i
  | .cls => Laws.EncodedWord.cls
  | .ret => Laws.EncodedWord.ret
  | .jp _ => Laws.EncodedWord.jp _
  | .call _ => Laws.EncodedWord.call _
  | .seImm _ _ => Laws.EncodedWord.seImm _ _
  | .sneImm _ _ => Laws.EncodedWord.sneImm _ _
  | .seReg _ _ => Laws.EncodedWord.seReg _ _
  | .ldImm _ _ => Laws.EncodedWord.ldImm _ _
  | .addImm _ _ => Laws.EncodedWord.addImm _ _
  | .ldReg _ _ => Laws.EncodedWord.ldReg _ _
  | .orReg _ _ => Laws.EncodedWord.orReg _ _
  | .andReg _ _ => Laws.EncodedWord.andReg _ _
  | .xorReg _ _ => Laws.EncodedWord.xorReg _ _
  | .addReg _ _ => Laws.EncodedWord.addReg _ _
  | .subReg _ _ => Laws.EncodedWord.subReg _ _
  | .shr _ _ => Laws.EncodedWord.shr _ _
  | .subnReg _ _ => Laws.EncodedWord.subnReg _ _
  | .shl _ _ => Laws.EncodedWord.shl _ _
  | .sneReg _ _ => Laws.EncodedWord.sneReg _ _
  | .ldI _ => Laws.EncodedWord.ldI _
  | .jpV0 _ => Laws.EncodedWord.jpV0 _
  | .rnd _ _ => Laws.EncodedWord.rnd _ _
  | .drw _ _ _ => Laws.EncodedWord.drw _ _ _
  | .skp _ => Laws.EncodedWord.skp _
  | .sknp _ => Laws.EncodedWord.sknp _
  | .ldFromDT _ => Laws.EncodedWord.ldFromDT _
  | .ldKey _ => Laws.EncodedWord.ldKey _
  | .ldToDT _ => Laws.EncodedWord.ldToDT _
  | .ldToST _ => Laws.EncodedWord.ldToST _
  | .addI _ => Laws.EncodedWord.addI _
  | .ldF _ => Laws.EncodedWord.ldF _
  | .ldB _ => Laws.EncodedWord.ldB _
  | .storeRegs _ => Laws.EncodedWord.storeRegs _
  | .loadRegs _ => Laws.EncodedWord.loadRegs _

theorem row_selects_of_decodeWord {w : Word} {i : Instr} (h : decodeWord w = some i) :
    ∃ r, opcodeTable[i.row]? = some r ∧ w &&& r.mask = r.pattern := by
  obtain ⟨r, hr, hsel⟩ := Option.map_eq_some_iff.1 (selects_encode i)
  rw [encode_of_decodeWord h] at hsel
  exact ⟨r, hr, of_decide_eq_true hsel⟩

theorem decodes_to_row_iff {w : Word} {k : Nat} {r : OpcodeRow} (hr : opcodeTable[k]? = some r) :
    (∃ i, decodeWord w = some i ∧ i.row = k) ↔ w &&& r.mask = r.pattern := by
  constructor
  · rintro ⟨i, hi, rfl⟩
    obtain ⟨q, hq, hsel⟩ := row_selects_of_decodeWord hi
    obtain rfl : q = r := Option.some.inj (hq.symm.trans hr)
    exact hsel
  · intro hsel
    obtain ⟨i, hi⟩ := Option.ne_none_iff_exists'.1 (decodeWord_ne_none_of_selects (List.mem_of_getElem? hr) hsel)
    obtain ⟨q, hq, hqsel⟩ := row_selects_of_decodeWord hi
    exact ⟨i, hi, row_unique hq hr hqsel hsel⟩

/-- Settles O3: a word that selects a row is recognised, what it decodes to has a row it selects, and that row is unique;
so the search order does not matter either. -/
theorem decodingIsExact : Obligations.DecodingIsExact := by
  refine ⟨fun w k r hr => decodes_to_row_iff hr, fun w j k q r => row_unique, fun rows hperm w => ?_⟩
  refine (List.find?_eq_find?_of_perm hperm.symm ?_).symm
  rintro q ⟨hq, hqsel⟩ r ⟨hr, hrsel⟩
  obtain ⟨j, hj⟩ := List.getElem?_of_mem hq
  obtain ⟨k, hk⟩ := List.getElem?_of_mem hr
  obtain rfl := row_unique hj hk (of_decide_eq_true hqsel) (of_decide_eq_true hrsel)
  exact Option.some.inj (hj.symm.trans hk)

/-- Settles O5: the decoder, evaluated on the twelve words. -/
theorem writtenWordsDecodeAsTheTableSays : Obligations.WrittenWordsDecodeAsTheTableSays :=
  ⟨rfl, rfl, rfl, rfl, rfl, rfl, rfl, rfl, rfl, rfl, rfl, rfl⟩

end Sys2Proof
end

section
/-! The storage each instruction writes, said once: every frame statement about `exec` is read off it. -/

namespace Sys2Proof.Machine

/-! ### Which storage an instruction writes -/

/-- The storages of 10_state.md by which the instructions are grouped: the one an instruction writes. The random input is
written with the registers, the display with VF, and the stack with `pc` and, by a fault, the status registers. -/
inductive Storage where
  | registers | random | display | keyWait | programCounter | index | memory | delayTimer | soundTimer | stack

/-- The storage an instruction writes (10_state.md sections 1 to 9). -/
def storageOf : Instr → Storage
  | .ldImm _ _ | .addImm _ _ | .ldReg _ _ | .orReg _ _ | .andReg _ _ | .xorReg _ _ | .addReg _ _ | .subReg _ _ | .shr _ _
  | .subnReg _ _ | .shl _ _ | .ldFromDT _ | .loadRegs _ => .registers
  | .rnd _ _ => .random
  | .cls | .drw _ _ _ => .display
  | .ldKey _ => .keyWait
  | .jp _ | .jpV0 _ | .seImm _ _ | .sneImm _ _ | .seReg _ _ | .sneReg _ _ | .skp _ | .sknp _ => .programCounter
  | .ldI _ | .addI _ | .ldF _ => .index
  | .ldB _ | .storeRegs _ => .memory
  | .ldToDT _ => .delayTimer
  | .ldToST _ => .soundTimer
  | .ret | .call _ => .stack

/-- Only the storage can differ, field by field. -/
def Storage.Only : Storage → State → State → Prop
  | .registers, s, t => t = { s with v := t.v }
  | .random, s, t => t = { s with v := t.v, rndIn := t.rndIn, draws := t.draws }
  | .display, s, t => t = { s with fb := t.fb, v := t.v }
  | .keyWait, s, t => t = { s with v := t.v, pc := t.pc }
  | .programCounter, s, t => t = { s with pc := t.pc }
  | .index, s, t => t = { s with i := t.i }
  | .memory, s, t => t = { s with mem := t.mem }
  | .delayTimer, s, t => t = { s with dt := t.dt }
  | .soundTimer, s, t => t = { s with st := t.st }
  | .stack, s, t => t = { s with stack := t.stack, sp := t.sp, pc := t.pc, halted := t.halted, faultCause := t.faultCause,
                                 faultPc := t.faultPc }

theorem consumeRnd_eq (s : State) :
    consumeRnd s = { s with rndIn := (consumeRnd s).rndIn, draws := (consumeRnd s).draws } := by
  unfold consumeRnd
  split <;> rfl

theorem storeV_eq (s : State) (n : Nat) : storeV s n = { s with mem := (storeV s n).mem } := by
  induction n with
  | zero => rfl
  | succ k ih => rw [storeV, ih]; rfl

theorem loadV_eq (s : State) (n : Nat) : loadV s n = { s with v := (loadV s n).v } := by
  induction n with
  | zero => rfl
  | succ k ih => rw [loadV, ih]; rfl

theorem only_skipIf (s : State) (c : Bool) : Storage.programCounter.Only s (skipIf s c) := by
  rw [skipIf_eq]
  exact rfl

theorem only_writeReg_consumeRnd (s : State) (x : RegIdx) (a : Byte) :
    Storage.random.Only s (writeReg (consumeRnd s) x a) := by
  rw [consumeRnd_eq]
  exact rfl

theorem only_of_execRet {s t : State} (h : execRet s = .next t) : Storage.stack.Only s t := by
  obtain ⟨-, rfl⟩ | ⟨j, -, -, rfl⟩ := execRet_cases h <;> exact rfl

theorem only_of_execCall {nnn : Addr} {s t : State} (h : execCall nnn s = .next t) : Storage.stack.Only s t := by
  obtain ⟨-, rfl⟩ | ⟨j, -, rfl⟩ := execCall_cases h <;> exact rfl

theorem only_of_execLdKey {x : RegIdx} {s t : State} (h : execLdKey x s = .next t) : Storage.keyWait.Only s t := by
  obtain ⟨k, -, he⟩ | ⟨-, he⟩ := execLdKey_cases x s <;> cases he.symm.trans h <;> exact rfl

/-- An instruction that completes changes only the storage it writes. -/
theorem only_of_exec {i : Instr} {s t : State} (h : exec i s = .next t) : (storageOf i).Only s t := by
  cases i with
  | ret => exact only_of_execRet h
  | call nnn => exact only_of_execCall h
  | ldKey x => exact only_of_execLdKey h
  | seImm | sneImm | seReg | sneReg | skp | sknp => cases h; exact only_skipIf s _
  | rnd x kk => cases h; exact only_writeReg_consumeRnd s x _
  | storeRegs x => cases h; exact storeV_eq s _
  | loadRegs x => cases h; exact loadV_eq s _
  | _ => cases h; exact rfl

/-! ### What each frame leaves, field by field -/

namespace Storage.Only

variable {u : Storage} {s t : State}

theorem v_eq (h : u.Only s t) (hu : u ∉ [registers, random, display, keyWait]) : t.v = s.v := by
  cases u <;> simp at hu <;> exact (congrArg State.v h :)

theorem i_eq (h : u.Only s t) (hu : u ≠ .index) : t.i = s.i := by
  cases u <;> simp at hu <;> exact (congrArg State.i h :)

theorem sp_eq (h : u.Only s t) (hu : u ≠ .stack) : t.sp = s.sp := by
  cases u <;> simp at hu <;> exact (congrArg State.sp h :)

theorem stack_eq (h : u.Only s t) (hu : u ≠ .stack) : t.stack = s.stack := by
  cases u <;> simp at hu <;> exact (congrArg State.stack h :)

theorem sameStatus (h : u.Only s t) (hu : u ≠ .stack) : SameStatus s t := by
  cases u <;> simp at hu <;>
    exact ⟨(congrArg State.halted h :), (congrArg State.faultCause h :), (congrArg State.faultPc h :)⟩

theorem dt_eq (h : u.Only s t) (hu : u ≠ .delayTimer) : t.dt = s.dt := by
  cases u <;> simp at hu <;> exact (congrArg State.dt h :)

theorem st_eq (h : u.Only s t) (hu : u ≠ .soundTimer) : t.st = s.st := by
  cases u <;> simp at hu <;> exact (congrArg State.st h :)

theorem fb_eq (h : u.Only s t) (hu : u ≠ .display) : t.fb = s.fb := by
  cases u <;> simp at hu <;> exact (congrArg State.fb h :)

theorem mem_eq (h : u.Only s t) (hu : u ≠ .memory) : t.mem = s.mem := by
  cases u <;> simp at hu <;> exact (congrArg State.mem h :)

theorem pc_eq (h : u.Only s t) (hu : u ∉ [stack, programCounter, keyWait]) : t.pc = s.pc := by
  cases u <;> simp at hu <;> exact (congrArg State.pc h :)

theorem keys_eq (h : u.Only s t) : t.keys = s.keys := by cases u <;> exact (congrArg State.keys h :)

theorem config_eq (h : u.Only s t) : t.config = s.config := by cases u <;> exact (congrArg State.config h :)

end Storage.Only

/-! ### The statement about every storage but the registers -/

theorem storageOf_eq_index {i : Instr} (h : storageOf i = .index) :
    (∃ nnn, i = .ldI nnn) ∨ (∃ x, i = .addI x) ∨ ∃ x, i = .ldF x := by
  cases i <;> simp [storageOf] at h ⊢

theorem storageOf_eq_stack {i : Instr} (h : storageOf i = .stack) : i = .ret ∨ ∃ nnn, i = .call nnn := by
  cases i <;> simp [storageOf] at h ⊢

theorem storageOf_eq_delayTimer {i : Instr} (h : storageOf i = .delayTimer) : ∃ x, i = .ldToDT x := by
  cases i <;> simp [storageOf] at h ⊢

theorem storageOf_eq_soundTimer {i : Instr} (h : storageOf i = .soundTimer) : ∃ x, i = .ldToST x := by
  cases i <;> simp [storageOf] at h ⊢

theorem storageOf_eq_display {i : Instr} (h : storageOf i = .display) : i = .cls ∨ ∃ x y n, i = .drw x y n := by
  cases i <;> simp [storageOf] at h ⊢

theorem storageOf_eq_memory {i : Instr} (h : storageOf i = .memory) : (∃ x, i = .ldB x) ∨ ∃ x, i = .storeRegs x := by
  cases i <;> simp [storageOf] at h ⊢

theorem storageOf_writes_pc {i : Instr} (h : storageOf i ∈ [.stack, .programCounter, .keyWait]) :
    i = .ret ∨ (∃ nnn, i = .jp nnn) ∨ (∃ nnn, i = .call nnn) ∨ (∃ x kk, i = .seImm x kk) ∨
      (∃ x kk, i = .sneImm x kk) ∨ (∃ x y, i = .seReg x y) ∨ (∃ x y, i = .sneReg x y) ∨ (∃ nnn, i = .jpV0 nnn) ∨
      (∃ x, i = .skp x) ∨ (∃ x, i = .sknp x) ∨ ∃ x, i = .ldKey x := by
  cases i <;> simp [storageOf] at h ⊢

/-- Settles O45: a field that changed is in the storage the instruction writes. -/
theorem eachStorageHasItsWriters : Obligations.EachStorageHasItsWriters := by
  intro i s t h
  have hf := only_of_exec h
  refine ⟨fun hne => storageOf_eq_index ?_, fun hne => storageOf_eq_stack ?_, fun hne => storageOf_eq_delayTimer ?_,
    fun hne => storageOf_eq_soundTimer ?_, fun hne => storageOf_eq_display ?_, fun hne => storageOf_eq_memory ?_,
    fun hne => storageOf_eq_stack ?_, fun hne => storageOf_writes_pc ?_, hf.keys_eq, hf.config_eq⟩
  · exact not_imp_comm.1 hf.i_eq hne
  · exact by_contra fun hu => hne.elim (· (hf.sp_eq hu)) (· (hf.stack_eq hu))
  · exact not_imp_comm.1 hf.dt_eq hne
  · exact not_imp_comm.1 hf.st_eq hne
  · exact not_imp_comm.1 hf.fb_eq hne
  · exact not_imp_comm.1 hf.mem_eq hne
  · refine by_contra fun hu => ?_
    obtain ⟨hhalted, hcause, hpc⟩ := hf.sameStatus hu
    exact hne.elim (· hhalted) (Or.elim · (· hcause) (· hpc))
  · exact not_imp_comm.1 hf.pc_eq hne

/-! ### The statement about the registers -/

theorem readReg_of_execLdKey {x r : RegIdx} {s t : State} (h : execLdKey x s = .next t) (hr : r ≠ x) :
    readReg t r = readReg s r := by
  obtain ⟨k, -, he⟩ | ⟨-, he⟩ := execLdKey_cases x s <;> cases he.symm.trans h
  · exact (readReg_writeReg ..).trans (if_neg hr)
  · exact readReg_rewind s r

/-- An instruction that completes leaves every register it may not write. -/
theorem readReg_of_exec {i : Instr} {s t : State} {r : RegIdx} (h : exec i s = .next t) (hr : ¬ mayWrite i r) :
    readReg t r = readReg s r := by
  have hf := only_of_exec h
  cases i with
  | ldImm | addImm | ldReg | orReg | andReg | xorReg | ldFromDT => cases h; exact (readReg_writeReg ..).trans (if_neg hr)
  | rnd => cases h; exact (readReg_writeReg ..).trans ((if_neg hr).trans (readReg_consumeRnd ..))
  | addReg | subReg | shr | subnReg | shl =>
    cases h
    obtain ⟨hx, hVF⟩ := not_or.1 hr
    exact (readReg_writeRegFlag ..).trans ((if_neg hVF).trans (if_neg hx))
  | drw => cases h; exact (readReg_writeReg ..).trans (if_neg hr)
  | loadRegs x => cases h; exact (readReg_loadV s x.isLt r).trans (if_neg (mt Nat.le_of_lt_succ hr))
  | ldKey x => exact readReg_of_execLdKey h hr
  | cls => cases h; exact readReg_setFB s _ r
  | _ => exact readReg_congr (hf.v_eq (by simp [storageOf])) r

/-- Settles O44: an instruction writes its destination, or VF as its flag, or no register at all. -/
theorem onlyDestinationsAndFlagsChange : Obligations.OnlyDestinationsAndFlagsChange :=
  fun _ _ _ _ h => not_imp_comm.1 (readReg_of_exec h)

end Sys2Proof.Machine
end

section
/-! The stack: what `RET` and `CALL` do for each value of `SP`, and that no other instruction stops or halts. -/

namespace Sys2Proof.Machine

/-! ### `SP` one down and one up -/

theorem byte_pred_toNat {a : Byte} (h : 0 < a.toNat) : (a - 0x01#8).toNat = a.toNat - 1 := by
  have ha := a.isLt
  rw [BitVec.toNat_sub, BitVec.toNat_ofNat]
  omega

theorem byte_succ_toNat {a : Byte} (h : a.toNat < 255) : (a + 0x01#8).toNat = a.toNat + 1 := by
  rw [BitVec.toNat_add, BitVec.toNat_ofNat]
  omega

/-! ### A write of the stack and its frame -/

theorem readSlot_pushSlot_self (s : State) (j : Fin 16) (a : Word) (n : Byte) : readSlot (pushSlot s j a n) j = a :=
  (readSlot_pushSlot s j j a n).trans (if_pos rfl)

theorem onlyStackAndPc_jump_setSP (s : State) (n : Byte) (a : Word) : OnlyStackAndPc s (jump (setSP s n) a) :=
  ⟨readReg_setSP s n, rfl, ⟨rfl, rfl⟩, fun _ _ => rfl, memRead_setSP s n, ⟨rfl, rfl, rfl⟩, ⟨rfl, rfl⟩, ⟨rfl, rfl⟩⟩

theorem onlyStackAndPc_jump_pushSlot (s : State) (j : Fin 16) (w : Word) (n : Byte) (a : Word) :
    OnlyStackAndPc s (jump (pushSlot s j w n) a) :=
  ⟨readReg_pushSlot s j w n, rfl, ⟨rfl, rfl⟩, fun _ _ => rfl, memRead_pushSlot s j w n, ⟨rfl, rfl, rfl⟩, ⟨rfl, rfl⟩,
    ⟨rfl, rfl⟩⟩

/-! ### `RET` (41_control_flow.md R121) -/

theorem exec_ret_of_empty {s : State} (h : s.sp.toNat = 0) : exec .ret s = .next (raiseFault .stackUnderflow s) :=
  if_pos (BitVec.eq_of_toNat_eq h)

theorem exec_ret_of_slot {s : State} {j : Fin 16} (h : s.sp.toNat = j.val + 1) :
    exec .ret s = .next (jump (setSP s (s.sp - 0x01#8)) (readSlot s j)) := by
  have hpred : (s.sp - 0x01#8).toNat = j.val := by rw [byte_pred_toNat (by omega), h, Nat.add_sub_cancel]
  have hne : s.sp ≠ 0x00#8 := fun h0 => by simp [h0] at h
  refine (if_neg hne).trans ((dif_pos (hpred ▸ j.isLt)).trans ?_)
  congr 3
  exact Fin.ext hpred

theorem exec_ret_of_out_of_range {s : State} (h : 16 < s.sp.toNat) : exec .ret s = .fault .stackPointerOutOfRange := by
  have hne : s.sp ≠ 0x00#8 := fun h0 => by simp [h0] at h
  have hpred := byte_pred_toNat (a := s.sp) (by omega)
  exact (if_neg hne).trans (dif_neg (by omega))

/-! ### `CALL nnn` (41_control_flow.md R123) -/

theorem exec_call_of_full {nnn : Addr} {s : State} (h : s.sp.toNat = 16) :
    exec (.call nnn) s = .next (raiseFault .stackOverflow s) :=
  if_pos (BitVec.eq_of_toNat_eq h)

theorem exec_call_of_slot {nnn : Addr} {s : State} {j : Fin 16} (h : s.sp.toNat = j.val) :
    exec (.call nnn) s = .next (jump (pushSlot s j s.pc (s.sp + 0x01#8)) (zext16 nnn)) := by
  have hne : s.sp ≠ 0x10#8 := fun h0 => by simp [h0] at h; omega
  refine (if_neg hne).trans ((dif_pos (h ▸ j.isLt)).trans ?_)
  congr 3
  exact Fin.ext h

theorem exec_call_of_out_of_range {nnn : Addr} {s : State} (h : 16 < s.sp.toNat) :
    exec (.call nnn) s = .fault .stackPointerOutOfRange := by
  have hne : s.sp ≠ 0x10#8 := fun h0 => by simp [h0] at h
  exact (if_neg hne).trans (dif_neg (by omega))

/-! ### The statements -/

/-- Settles O21: one statement for each of the two values of `SP` that `RET` tells apart. -/
theorem returnPopsOrUnderflows : Obligations.ReturnPopsOrUnderflows := by
  refine ⟨fun s j hj => ⟨_, exec_ret_of_slot hj, ?_, rfl, fun _ => rfl, onlyStackAndPc_jump_setSP s _ _⟩,
    fun s h0 => exec_ret_of_empty h0⟩
  exact (byte_pred_toNat (by omega)).trans (by omega)

/-- Settles O22: one statement for each of the two values of `SP` that `CALL` tells apart. -/
theorem callPushesOrOverflows : Obligations.CallPushesOrOverflows := by
  refine ⟨fun s nnn j hj => ⟨_, exec_call_of_slot hj, ?_, ?_, ?_, fun k hk => ?_, onlyStackAndPc_jump_pushSlot s _ _ _ _⟩,
    fun s nnn h => exec_call_of_full h⟩
  · exact (byte_succ_toNat (by omega)).trans (by omega)
  · exact BitVec.toNat_setWidth_of_le (by decide)
  · exact readSlot_pushSlot_self s j s.pc (s.sp + 0x01#8)
  · exact (readSlot_pushSlot s j k s.pc (s.sp + 0x01#8)).trans (if_neg hk)

/-- Settles O26: the `RET` pops the slot that the `CALL` pushed. -/
theorem returnComesBackAfterItsCall : Obligations.ReturnComesBackAfterItsCall := by
  intro s nnn hsp
  have hcall := exec_call_of_slot (nnn := nnn) (s := s) (j := ⟨_, hsp⟩) rfl
  refine ⟨_, hcall, fun u husp hustack => ?_⟩
  have husp' : u.sp = s.sp + 0x01#8 := husp
  have hret := exec_ret_of_slot (s := u) (j := ⟨_, hsp⟩) (by rw [husp', byte_succ_toNat (by omega)])
  refine ⟨_, hret, ?_, ?_⟩
  · exact (readSlot_congr hustack _).trans (readSlot_pushSlot_self s _ s.pc (s.sp + 0x01#8))
  · simp [husp']

/-- Every instruction but `RET` and `CALL` completes from every state (60_exceptions.md section 1). -/
theorem exec_completes {i : Instr} (s : State) (hi : storageOf i ≠ .stack) : ∃ t, exec i s = .next t := by
  cases i with
  | ret | call => exact absurd rfl hi
  | ldKey x => obtain ⟨k, -, h⟩ | ⟨-, h⟩ := execLdKey_cases x s <;> exact ⟨_, h⟩
  | _ => exact ⟨_, rfl⟩

/-- Every instruction completes while `SP` is at most 16. -/
theorem exec_completes_of_sp_le {i : Instr} {s : State} (hsp : s.sp.toNat ≤ 16) : ∃ t, exec i s = .next t := by
  by_cases hi : storageOf i = .stack
  · obtain rfl | ⟨nnn, rfl⟩ := storageOf_eq_stack hi
    · rcases Nat.eq_zero_or_pos s.sp.toNat with h0 | hpos
      · exact ⟨_, exec_ret_of_empty h0⟩
      · exact ⟨_, exec_ret_of_slot (j := ⟨s.sp.toNat - 1, by omega⟩) (show _ = s.sp.toNat - 1 + 1 by omega)⟩
    · rcases hsp.eq_or_lt with h16 | hlt
      · exact ⟨_, exec_call_of_full h16⟩
      · exact ⟨_, exec_call_of_slot (j := ⟨_, hlt⟩) rfl⟩
  · exact exec_completes s hi

theorem exec_of_sp_gt {i : Instr} {s : State} (hi : i = .ret ∨ ∃ nnn, i = .call nnn) (hsp : 16 < s.sp.toNat) :
    exec i s = .fault .stackPointerOutOfRange := by
  obtain rfl | ⟨nnn, rfl⟩ := hi
  · exact exec_ret_of_out_of_range hsp
  · exact exec_call_of_out_of_range hsp

/-- Settles O27: with `SP` above 16 `RET` and `CALL` stop, and in every other case the instruction completes. -/
theorem onlyAnIllegalStackPointerStops : Obligations.OnlyAnIllegalStackPointerStops := by
  intro i s
  by_cases hstop : (i = .ret ∨ ∃ nnn, i = .call nnn) ∧ 16 < s.sp.toNat
  · have hfault := exec_of_sp_gt hstop.1 hstop.2
    exact ⟨.inr hfault, iff_of_true hfault hstop⟩
  · have hcompletes : ∃ t, exec i s = .next t := by
      rcases le_or_gt s.sp.toNat 16 with hsp | hsp
      · exact exec_completes_of_sp_le hsp
      · exact exec_completes s fun hi => hstop ⟨storageOf_eq_stack hi, hsp⟩
    obtain ⟨t, ht⟩ := hcompletes
    exact ⟨.inl ⟨t, ht⟩, iff_of_false (by simp [ht]) hstop⟩

/-! ### Faults -/

/-- A fault raised right after the fetch leaves `pc` at the instruction and writes the status registers alone
(60_exceptions.md R232). -/
theorem raiseFault_advance (c : FaultCause) (s : State) :
    raiseFault c (advance s) = { s with halted := true, faultCause := c.code, faultPc := s.pc } := by
  simp [raiseFault]

/-- Settles O46: only `RET` and `CALL` can write `halted`, and of their outcomes only the fault does. -/
theorem onlyStackFaultsHaltAndTheyArePrecise : Obligations.OnlyStackFaultsHaltAndTheyArePrecise := by
  intro s t hs h ht
  obtain ⟨hs', -⟩ | ⟨-, -, rfl⟩ | ⟨i, -, hi, hexec⟩ := step_cases h
  · simp [hs] at hs'
  · simp [hs] at ht
  · rw [fetchWord_eq_nextWord] at hi
    have hstack : storageOf i = .stack := by
      by_contra hu
      simp [((only_of_exec hexec).sameStatus hu).1, hs] at ht
    obtain rfl | ⟨nnn, rfl⟩ := storageOf_eq_stack hstack
    · obtain ⟨hsp, rfl⟩ | ⟨j, -, -, rfl⟩ := execRet_cases hexec
      · exact .inr ⟨hi, congrArg BitVec.toNat hsp, raiseFault_advance _ s⟩
      · simp [hs] at ht
    · obtain ⟨hsp, rfl⟩ | ⟨j, -, rfl⟩ := execCall_cases hexec
      · exact .inl ⟨⟨nnn, hi⟩, congrArg BitVec.toNat hsp, raiseFault_advance _ s⟩
      · simp [hs] at ht

end Sys2Proof.Machine
end

section
/-! The invariant: every instruction, step and host operation keeps it, so every schedule does. -/

namespace Sys2Proof.Machine

variable {s t : State}

/-! ### Ways to keep the invariant -/

/-- The invariant speaks of memory, `SP`, the status registers and, of a halted block, `pc`. -/
theorem Inv.of_same (hs : Inv s) (hmem : Memory.wf t.config.resetByte t.mem = true) (hsp : t.sp = s.sp)
    (hpc : t.pc = s.pc) (hstatus : SameStatus s t) : Inv t := by
  obtain ⟨hhalted, hcause, hfaultPc⟩ := hstatus
  obtain ⟨-, hle, hlegal, hiff, hclear, hstands, hover, hunder⟩ := hs
  constructor <;> simp_all

/-- While the block is not halted, the invariant asks only for a canonical memory, an `SP` up to 16 and clear status
registers. -/
theorem Inv.of_running (hs : Inv s) (hrun : s.halted = false) (hmem : Memory.wf t.config.resetByte t.mem = true)
    (hsp : t.sp.toNat ≤ 16) (hstatus : SameStatus s t) : Inv t := by
  obtain ⟨hhalted, hcause, hfaultPc⟩ := hstatus
  have hclear : s.faultCause = 0#2 := by simpa [hrun] using hs.causeIffHalted
  have hpc := hs.faultPcClear hrun
  constructor <;> simp_all

/-- A fault meets the invariant when `SP` is the value that raises it (60_exceptions.md R231, R232). -/
theorem inv_raiseFault {c : FaultCause} (hmem : Memory.wf s.config.resetByte s.mem = true)
    (hsp : s.sp = match c with | .stackOverflow => 0x10#8 | .stackUnderflow => 0x00#8) : Inv (raiseFault c s) := by
  cases c <;> constructor <;> simp_all [FaultCause.code]

/-! ### Instructions and steps -/

theorem exec_keeps_canonical_memory {i : Instr} (h : exec i s = .next t)
    (hm : Memory.wf s.config.resetByte s.mem = true) : Memory.wf t.config.resetByte t.mem = true := by
  by_cases hi : storageOf i = .memory
  · obtain ⟨x, rfl⟩ | ⟨x, rfl⟩ := storageOf_eq_memory hi <;> cases h
    · exact memWrite_wf _ (memWrite_wf _ (memWrite_wf _ hm _ _) _ _) _ _
    · exact storeV_wf s hm _
  · have hf := only_of_exec h
    rwa [hf.mem_eq hi, hf.config_eq]

theorem execRet_keeps_inv (hs : Inv s) (hrun : s.halted = false) (h : execRet s = .next t) : Inv t := by
  obtain ⟨hsp, rfl⟩ | ⟨j, -, hj, rfl⟩ := execRet_cases h
  · exact inv_raiseFault hs.memory hsp
  · exact hs.of_running hrun hs.memory (hj.trans_le (by omega)) ⟨rfl, rfl, rfl⟩

theorem execCall_keeps_inv {nnn : Addr} (hs : Inv s) (hrun : s.halted = false) (h : execCall nnn s = .next t) :
    Inv t := by
  obtain ⟨hsp, rfl⟩ | ⟨j, hj, rfl⟩ := execCall_cases h
  · exact inv_raiseFault hs.memory hsp
  · exact hs.of_running hrun hs.memory ((byte_succ_toNat (by omega)).trans_le (by omega)) ⟨rfl, rfl, rfl⟩

theorem exec_keeps_inv {i : Instr} (hs : Inv s) (hrun : s.halted = false) (h : exec i s = .next t) : Inv t := by
  by_cases hi : storageOf i = .stack
  · obtain rfl | ⟨nnn, rfl⟩ := storageOf_eq_stack hi
    · exact execRet_keeps_inv hs hrun h
    · exact execCall_keeps_inv hs hrun h
  · have hf := only_of_exec h
    exact hs.of_running hrun (exec_keeps_canonical_memory h hs.memory) (hf.sp_eq hi ▸ hs.stackPointer) (hf.sameStatus hi)

theorem advance_keeps_inv (hs : Inv s) (hrun : s.halted = false) : Inv (advance s) :=
  hs.of_running hrun hs.memory hs.stackPointer ⟨rfl, rfl, rfl⟩

theorem step_keeps_inv (hs : Inv s) (h : step s = .next t) : Inv t := by
  obtain ⟨-, rfl⟩ | ⟨hrun, -, rfl⟩ | ⟨i, hrun, -, hexec⟩ := step_cases h
  · exact hs
  · exact advance_keeps_inv hs hrun
  · exact exec_keeps_inv (advance_keeps_inv hs hrun) hrun hexec

/-- Settles O54: a halted block stays as it is, and a running one keeps the invariant through the advance and the
instruction. -/
theorem everyStepKeepsTheInvariant : Obligations.EveryStepKeepsTheInvariant := fun _ _ => step_keeps_inv

/-! ### Host operations and schedules -/

theorem step_completes (hsp : s.sp.toNat ≤ 16) : ∃ t, step s = .next t := by
  unfold step
  split_ifs
  · exact ⟨_, rfl⟩
  · cases decodeWord (fetchWord s) with
    | none => exact ⟨_, rfl⟩
    | some i => exact exec_completes_of_sp_le (s := advance s) hsp

theorem stepWith_of_step {rnd : Byte} (h : step (presentRnd s rnd) = .next t) : stepWith rnd s = .next (dropRnd t) := by
  simp [stepWith, h]

theorem inv_resetWith (c : Config) : Inv (State.resetWith c) := by
  constructor <;> simp [State.resetWith, Memory.nil_wf]

/-- Settles O53: nothing is listed in memory, and `SP` and the status registers are 0. -/
theorem resetMeetsTheInvariant : Obligations.ResetMeetsTheInvariant := inv_resetWith Config.hardware

theorem perform_keeps_inv (op : HostOp) (hs : Inv s) : ∃ t, perform op s = .next t ∧ Inv t := by
  cases op with
  | reset => exact ⟨_, rfl, (inv_resetWith s.config).of_same rfl rfl rfl ⟨rfl, rfl, rfl⟩⟩
  | step rnd =>
    have hpresent : Inv (presentRnd s rnd) := hs.of_same hs.memory rfl rfl ⟨rfl, rfl, rfl⟩
    obtain ⟨t, ht⟩ := step_completes hpresent.stackPointer
    have hinv := step_keeps_inv hpresent ht
    exact ⟨_, stepWith_of_step ht, hinv.of_same hinv.memory rfl rfl ⟨rfl, rfl, rfl⟩⟩
  | tick => exact ⟨_, rfl, hs.of_same (by simpa using hs.memory) (by simp) (by simp) ⟨by simp, by simp, by simp⟩⟩
  | setKeys k => exact ⟨_, rfl, hs.of_same hs.memory rfl rfl ⟨rfl, rfl, rfl⟩⟩
  | hostWrite a v => exact ⟨_, rfl, hs.of_same (memWrite_wf s hs.memory _ _) rfl rfl ⟨rfl, rfl, rfl⟩⟩
  | hostRead | readFB | readStatus => exact ⟨_, rfl, hs⟩

theorem performAll_cons {op : HostOp} {ops : List HostOp} {u : State} (h : perform op s = .next u) :
    performAll (op :: ops) s = performAll ops u := by simp [performAll, h]

/-- A schedule that completes is one operation that completes and a schedule that does so from there. -/
theorem performAll_cons_cases {op : HostOp} {ops : List HostOp} (h : performAll (op :: ops) s = .next t) :
    ∃ u, perform op s = .next u ∧ performAll ops u = .next t := by
  unfold performAll at h
  split at h
  case h_1 u hu => exact ⟨u, hu, h⟩
  all_goals cases h

/-- Settles O55, by induction on the schedule: each operation completes and keeps the invariant for the next one. -/
theorem everyScheduleCompletesAndKeepsTheInvariant : Obligations.EveryScheduleCompletesAndKeepsTheInvariant := by
  intro ops
  induction ops with
  | nil => exact fun s hs => ⟨s, rfl, hs⟩
  | cons op ops ih =>
    intro s hs
    obtain ⟨u, hu, hinv⟩ := perform_keeps_inv op hs
    rw [performAll_cons hu]
    exact ih u hinv

/-! ### A halted block -/

theorem step_of_halted (hs : s.halted = true) : step s = .next s := if_pos hs

theorem warningOf_of_halted (hs : s.halted = true) : warningOf s = none := if_pos hs

theorem stepWith_of_halted {rnd : Byte} (hs : s.halted = true) : stepWith rnd s = .next (dropRnd s) :=
  stepWith_of_step (t := presentRnd s rnd) (step_of_halted hs)

theorem perform_of_halted {op : HostOp} (hs : s.halted = true) (hop : op ≠ .reset) :
    ∃ t, perform op s = .next t ∧ t.halted = true ∧ t.faultCause = s.faultCause ∧ t.faultPc = s.faultPc ∧
      t.pc = s.pc := by
  cases op with
  | reset => exact absurd rfl hop
  | step rnd => exact ⟨_, stepWith_of_halted hs, hs, rfl, rfl, rfl⟩
  | tick => exact ⟨_, rfl, by simpa using hs, by simp, by simp, by simp⟩
  | _ => exact ⟨_, rfl, hs, rfl, rfl, rfl⟩

/-- Settles O9: the step tests `halted` first, and only the reset writes the status registers of a halted block. -/
theorem haltedBlockStaysHaltedUntilReset : Obligations.HaltedBlockStaysHaltedUntilReset := fun _ hs =>
  ⟨step_of_halted hs, warningOf_of_halted hs, fun _ hop => perform_of_halted hs hop, _, rfl, rfl⟩

theorem SafeRun.not_halted {ops : List HostOp} (h : SafeRun ops s) : s.halted = false := by
  cases ops with
  | nil => exact h
  | cons op ops => exact h.1

/-- Settles O56, by induction on the schedule: had an operation started halted, it would have left the block halted, and
the rest of the schedule would not be safe. -/
theorem runThatEndsUnhaltedWasSafe : Obligations.RunThatEndsUnhaltedWasSafe := by
  intro ops
  induction ops with
  | nil => rintro s t - h ht; cases h; exact ht
  | cons op ops ih =>
    intro s t hreset h ht
    rw [List.mem_cons, not_or] at hreset
    obtain ⟨u, hu, hrest⟩ := performAll_cons_cases h
    have hsafe := ih u t hreset.2 hrest ht
    refine ⟨?_, u, hu, hsafe⟩
    by_contra hhalted
    obtain ⟨u', hu', hu'halted, -⟩ := perform_of_halted (op := op) (by simpa using hhalted) (Ne.symm hreset.1)
    cases hu.symm.trans hu'
    exact Bool.false_ne_true (hsafe.not_halted.symm.trans hu'halted)

end Sys2Proof.Machine
end

section
/-! The timers along a schedule: ticks count them down, and nothing else but their own writer and a reset writes them. -/

namespace Sys2Proof.Machine

variable {s t : State}

theorem countDown_toNat (a : Byte) : (countDown a).toNat = a.toNat - 1 := by
  unfold countDown
  split_ifs with h
  · simp [h]
  · exact byte_pred_toNat (Nat.pos_of_ne_zero fun h0 => h (BitVec.eq_of_toNat_eq h0))

theorem onlyTimers_tick (s : State) : OnlyTimers s (tick s) :=
  ⟨readReg_tick s, by simp, by simp, ⟨by simp, readSlot_congr (by simp)⟩, fun _ _ => by simp, memRead_tick s,
    ⟨by simp, by simp, by simp⟩, ⟨by simp, by simp⟩, ⟨by simp, by simp⟩⟩

/-- Settles O42: with the decay on both timers count down, and the tick writes nothing else. -/
theorem tickCountsDownToZero : Obligations.TickCountsDownToZero := fun s =>
  ⟨tick s, rfl, onlyTimers_tick s, fun hdecay => by simp [hdecay, countDown_toNat], fun hdecay => by simp [tick, hdecay]⟩

/-! ### What a step leaves -/

/-! A step writes no timer but by the instruction that names it, and no parameter. -/

theorem step_keeps_config (h : step s = .next t) : t.config = s.config := by
  obtain ⟨-, rfl⟩ | ⟨-, -, rfl⟩ | ⟨i, -, -, hexec⟩ := step_cases h
  · rfl
  · rfl
  · exact (only_of_exec hexec).config_eq

theorem step_keeps_dt (h : step s = .next t) (hw : s.halted = false → ∀ x, decodeWord (nextWord s) ≠ some (.ldToDT x)) :
    t.dt = s.dt := by
  obtain ⟨-, rfl⟩ | ⟨-, -, rfl⟩ | ⟨i, hrun, hi, hexec⟩ := step_cases h
  · rfl
  · rfl
  · refine (only_of_exec hexec).dt_eq fun hdelay => ?_
    obtain ⟨x, rfl⟩ := storageOf_eq_delayTimer hdelay
    exact hw hrun x hi

theorem step_keeps_st (h : step s = .next t) (hw : s.halted = false → ∀ x, decodeWord (nextWord s) ≠ some (.ldToST x)) :
    t.st = s.st := by
  obtain ⟨-, rfl⟩ | ⟨-, -, rfl⟩ | ⟨i, hrun, hi, hexec⟩ := step_cases h
  · rfl
  · rfl
  · refine (only_of_exec hexec).st_eq fun hsound => ?_
    obtain ⟨x, rfl⟩ := storageOf_eq_soundTimer hsound
    exact hw hrun x hi

theorem perform_keeps_config {op : HostOp} (h : perform op s = .next t) : t.config = s.config := by
  cases op with
  | step rnd =>
    obtain ⟨u, hu, rfl⟩ := stepWith_cases h
    exact (step_keeps_config hu :)
  | tick => cases h; exact tick_config s
  | _ => cases h; rfl

/-! ### Schedules -/

/-- What makes a field of the state a timer with one writer: ticks count it down, the other operations leave it, and so
does a step that does not execute the writer. -/
structure IsTimer (timer : State → Byte) (writer : RegIdx → Instr) : Prop where
  tick : ∀ s, s.config.timerDecay = true → timer (tick s) = countDown (timer s)
  step : ∀ s t, step s = .next t → (s.halted = false → ∀ x, decodeWord (nextWord s) ≠ some (writer x)) → timer t = timer s
  setRnd : ∀ s r, timer { s with rndIn := r } = timer s
  setKeypad : ∀ s k, timer (setKeypad s k) = timer s
  memWrite : ∀ s a v, timer (memWrite s a v) = timer s

theorem isTimer_dt : IsTimer State.dt .ldToDT where
  tick s hdecay := by simp [hdecay]
  step _ _ := step_keeps_dt
  setRnd _ _ := rfl
  setKeypad _ _ := rfl
  memWrite _ _ _ := rfl

theorem isTimer_st : IsTimer State.st .ldToST where
  tick s hdecay := by simp [hdecay]
  step _ _ := step_keeps_st
  setRnd _ _ := rfl
  setKeypad _ _ := rfl
  memWrite _ _ _ := rfl

variable {timer : State → Byte} {writer : RegIdx → Instr}

/-- One operation takes 1 from the timer when it is a tick, and else leaves it. -/
theorem IsTimer.toNat_of_perform (htimer : IsTimer timer writer) {op : HostOp} (hdecay : s.config.timerDecay = true)
    (hreset : op ≠ .reset)
    (hw : ∀ rnd, op = .step rnd → s.halted = false → ∀ x, decodeWord (nextWord s) ≠ some (writer x))
    (h : perform op s = .next t) : (timer t).toNat = (timer s).toNat - tickCount [op] := by
  cases op with
  | reset => exact absurd rfl hreset
  | tick => cases h; rw [htimer.tick s hdecay]; exact countDown_toNat _
  | step rnd =>
    obtain ⟨u, hu, rfl⟩ := stepWith_cases h
    have hstep : timer u = timer (presentRnd s rnd) := htimer.step _ _ hu (hw rnd rfl)
    exact congrArg BitVec.toNat ((htimer.setRnd u none).trans (hstep.trans (htimer.setRnd s (some rnd))))
  | setKeys k => cases h; exact congrArg BitVec.toNat (htimer.setKeypad s k)
  | hostWrite a v => cases h; exact congrArg BitVec.toNat (htimer.memWrite s _ v)
  | hostRead | readFB | readStatus => cases h; rfl

theorem IsTimer.toNat_of_performAll (htimer : IsTimer timer writer) {ops : List HostOp}
    (hdecay : s.config.timerDecay = true) (h : performAll ops s = .next t) (hw : LeavesToTicks writer ops s) :
    (timer t).toNat = (timer s).toNat - tickCount ops := by
  induction ops generalizing s with
  | nil => cases h; rfl
  | cons op ops ih =>
    obtain ⟨u, hu, hrest⟩ := performAll_cons_cases h
    obtain ⟨hreset, hstep, hlater⟩ := hw
    have hop := htimer.toNat_of_perform hdecay hreset hstep hu
    have hops := ih (perform_keeps_config hu ▸ hdecay) hrest (hlater u hu)
    have hcount : tickCount (op :: ops) = tickCount [op] + tickCount ops := List.count_append (l₁ := [op])
    omega

/-- Settles O43: both timers are timers with one writer. -/
theorem timerReachesZeroAfterItsTicks : Obligations.TimerReachesZeroAfterItsTicks := fun _ _ _ hdecay h =>
  ⟨isTimer_dt.toNat_of_performAll hdecay h, isTimer_st.toNat_of_performAll hdecay h⟩

end Sys2Proof.Machine
end

section
/-! Two runs: an update of the state that an instruction neither reads nor writes commutes with it. -/

namespace Sys2Proof.Machine

variable {s t : State}

/-! ### Results up to an update -/

/-- The update made to the next state of a result. -/
def mapNext (f : State → State) : Result → Result
  | .next t => .next (f t)
  | .fault r => .fault r
  | .refused r => .refused r

theorem nextOf_mapNext (f : State → State) (r : Result) : nextOf (mapNext f r) = (nextOf r).map f := by cases r <;> rfl

theorem mapNext_mapNext (f g : State → State) (r : Result) : mapNext f (mapNext g r) = mapNext (f ∘ g) r := by
  cases r <;> rfl

/-- An update of storages that instructions other than `RET`, `CALL`, `RND` and the three timer instructions neither read
nor write: what it leaves, and that it commutes with every other write. -/
structure Unseen (f : State → State) : Prop where
  v : ∀ s, (f s).v = s.v
  i : ∀ s, (f s).i = s.i
  pc : ∀ s, (f s).pc = s.pc
  keys : ∀ s, (f s).keys = s.keys
  fb : ∀ s, (f s).fb = s.fb
  mem : ∀ s, (f s).mem = s.mem
  halted : ∀ s, (f s).halted = s.halted
  config : ∀ s, (f s).config = s.config
  writeReg : ∀ s x a, f (writeReg s x a) = writeReg (f s) x a
  setIndex : ∀ s a, f (setIndex s a) = setIndex (f s) a
  jump : ∀ s a, f (jump s a) = jump (f s) a
  setFB : ∀ s d, f (setFB s d) = setFB (f s) d
  memWrite : ∀ s a b, f (memWrite s a b) = memWrite (f s) a b

namespace Unseen

variable {f : State → State} (hf : Unseen f)
include hf

theorem readReg_eq (s : State) (x : RegIdx) : readReg (f s) x = readReg s x := readReg_congr (hf.v s) x

theorem memRead_eq (s : State) (a : Nat) : memRead (f s) a = memRead s a := memRead_congr (hf.mem s) (hf.config s) a

theorem skipIf_eq (s : State) (c : Bool) : f (skipIf s c) = skipIf (f s) c := by
  rw [Machine.skipIf_eq, Machine.skipIf_eq, hf.jump, hf.pc]

theorem rewind_eq (s : State) : f (rewind s) = rewind (f s) := by rw [rewind, rewind, pc0, pc0, hf.jump, hf.pc]

theorem writeRegFlag_eq (s : State) (x : RegIdx) (a : Byte) (b : Bool) :
    f (writeRegFlag s x a b) = writeRegFlag (f s) x a b := by rw [writeRegFlag, writeRegFlag, hf.writeReg, hf.writeReg]

theorem storeV_eq (s : State) (n : Nat) : f (storeV s n) = storeV (f s) n := by
  induction n with
  | zero => rfl
  | succ k ih => rw [storeV, storeV, hf.memWrite, ih, hf.i, hf.readReg_eq]

theorem loadV_eq (s : State) (n : Nat) : f (loadV s n) = loadV (f s) n := by
  induction n with
  | zero => rfl
  | succ k ih => rw [loadV, loadV, hf.writeReg, ih, hf.i, hf.memRead_eq]

theorem drawSprite_eq (s : State) (cx cy : Byte) (base : Word) (n : Nat) :
    drawSprite (f s) cx cy base n = drawSprite s cx cy base n := by
  induction n with
  | zero => rw [drawSprite, drawSprite, hf.fb]
  | succ k ih => rw [drawSprite, drawSprite, ih, hf.memRead_eq]

theorem execLdKey_eq (x : RegIdx) (s : State) : execLdKey x (f s) = mapNext f (execLdKey x s) := by
  unfold execLdKey
  rw [hf.keys]
  cases lowestKey s.keys with
  | none => exact congrArg _ (hf.rewind_eq s).symm
  | some k => exact congrArg _ (hf.writeReg s x _).symm

end Unseen

/-- The instructions that read or write the stack, a timer or the random input. -/
def namesUnseen : Instr → Bool
  | .ret | .call _ | .rnd _ _ | .ldFromDT _ | .ldToDT _ | .ldToST _ => true
  | _ => false

theorem exec_unseen {f : State → State} (hf : Unseen f) {i : Instr} (hi : namesUnseen i = false) (s : State) :
    exec i (f s) = mapNext f (exec i s) := by
  cases i with
  | ret | call | rnd | ldFromDT | ldToDT | ldToST => simp [namesUnseen] at hi
  | ldKey x => exact hf.execLdKey_eq x s
  | seImm | sneImm | seReg | sneReg | skp | sknp =>
    simp only [exec, execSeImm, execSneImm, execSeReg, execSneReg, execSkp, execSknp, mapNext, hf.readReg_eq, hf.keys,
      hf.skipIf_eq]
  | jp | jpV0 => simp only [exec, execJp, execJpV0, mapNext, hf.readReg_eq, hf.jump]
  | ldImm | addImm | ldReg | orReg | andReg | xorReg =>
    simp only [exec, execLdImm, execAddImm, execLdReg, execOr, execAnd, execXor, mapNext, hf.readReg_eq, hf.writeReg]
  | addReg | subReg | shr | subnReg | shl =>
    simp only [exec, execAddReg, execSub, execShr, execSubn, execShl, mapNext, hf.readReg_eq, hf.writeRegFlag_eq]
  | cls => exact congrArg Host.Outcome.next (hf.setFB s _).symm
  | drw =>
    simp only [exec, execDrw, mapNext, hf.readReg_eq, hf.i, hf.drawSprite_eq, hf.writeReg, hf.setFB]
  | ldI | addI | ldF => simp only [exec, execLdI, execAddI, execLdF, mapNext, hf.i, hf.readReg_eq, hf.setIndex]
  | ldB => simp only [exec, execLdB, mapNext, hf.i, hf.readReg_eq, hf.memWrite]
  | storeRegs x => exact congrArg _ (hf.storeV_eq s _).symm
  | loadRegs x => exact congrArg _ (hf.loadV_eq s _).symm

theorem step_unseen {f : State → State} (hf : Unseen f)
    (hexec : ∀ i, decodeWord (nextWord s) = some i → exec i (f (advance s)) = mapNext f (exec i (advance s))) :
    step (f s) = mapNext f (step s) := by
  have hadvance : advance (f s) = f (advance s) := by rw [advance, advance, hf.jump, hf.pc]
  have hfetch : fetchWord (f s) = fetchWord s := by rw [fetchWord, fetchWord, hf.pc, hf.memRead_eq, hf.memRead_eq]
  unfold step
  rw [hf.halted, hfetch, hadvance]
  split_ifs
  · rfl
  · cases hd : decodeWord (fetchWord s) with
    | none => exact congrArg _ hadvance
    | some i => exact hexec i hd

/-! ### The stack and the random input under such an update -/

/-- The update leaves the stack as well, and commutes with its writes. -/
structure UnseenByStack (f : State → State) : Prop where
  sp : ∀ s, (f s).sp = s.sp
  stack : ∀ s, (f s).stack = s.stack
  pop : ∀ s n a, f (jump (setSP s n) a) = jump (setSP (f s) n) a
  push : ∀ s j n a, f (jump (pushSlot s j s.pc n) a) = jump (pushSlot (f s) j (f s).pc n) a
  raiseFault : ∀ s c, f (raiseFault c s) = raiseFault c (f s)

theorem UnseenByStack.execRet_eq {f : State → State} (hf : UnseenByStack f) (s : State) :
    execRet (f s) = mapNext f (execRet s) := by
  unfold execRet
  simp only [hf.sp, readSlot_congr (hf.stack s)]
  split_ifs
  · exact congrArg _ (hf.raiseFault s _).symm
  · exact congrArg _ (hf.pop s _ _).symm
  · rfl

theorem UnseenByStack.execCall_eq {f : State → State} (hf : UnseenByStack f) (nnn : Addr) (s : State) :
    execCall nnn (f s) = mapNext f (execCall nnn s) := by
  unfold execCall
  simp only [hf.sp]
  split_ifs
  · exact congrArg _ (hf.raiseFault s _).symm
  · exact congrArg _ (hf.push s _ _ _).symm
  · rfl

/-- The update leaves the random input, and commutes with its use. -/
structure UnseenByRnd (f : State → State) : Prop where
  rndByte : ∀ s, rndByte (f s) = rndByte s
  consumeRnd : ∀ s, f (consumeRnd s) = consumeRnd (f s)

theorem UnseenByRnd.execRnd_eq {f : State → State} (hu : Unseen f) (hf : UnseenByRnd f) (x : RegIdx) (kk : Byte)
    (s : State) : execRnd x kk (f s) = mapNext f (execRnd x kk s) := by
  simp only [execRnd, mapNext, hu.writeReg, hf.rndByte, hf.consumeRnd]

/-! ### The random byte, the timers and the stack -/

theorem unseen_presentRnd (r : Byte) : Unseen (presentRnd · r) := by constructor <;> intros <;> rfl

theorem unseen_setST (a : Byte) : Unseen (setST · a) := by constructor <;> intros <;> rfl

theorem unseen_setDT (a : Byte) : Unseen (setDT · a) := by constructor <;> intros <;> rfl

/-- `s` with every slot replaced. -/
def setStack (s : State) (k : Vector Word 16) : State := { s with stack := k }

theorem unseen_setStack (k : Vector Word 16) : Unseen (setStack · k) := by constructor <;> intros <;> rfl

theorem unseenByStack_presentRnd (r : Byte) : UnseenByStack (presentRnd · r) := by constructor <;> intros <;> rfl

theorem unseenByStack_setST (a : Byte) : UnseenByStack (setST · a) := by constructor <;> intros <;> rfl

theorem unseenByStack_setDT (a : Byte) : UnseenByStack (setDT · a) := by constructor <;> intros <;> rfl

theorem unseenByRnd_setST (a : Byte) : UnseenByRnd (setST · a) where
  rndByte _ := rfl
  consumeRnd s := by unfold consumeRnd; rw [setST_rndIn]; split <;> rfl

theorem unseenByRnd_setDT (a : Byte) : UnseenByRnd (setDT · a) where
  rndByte _ := rfl
  consumeRnd s := by unfold consumeRnd; rw [setDT_rndIn]; split <;> rfl

theorem unseenByRnd_setStack (k : Vector Word 16) : UnseenByRnd (setStack · k) where
  rndByte _ := rfl
  consumeRnd s := by unfold consumeRnd; rw [show (setStack s k).rndIn = s.rndIn from rfl]; split <;> rfl

/-! ### What a step reads of the random byte and of the timers -/

theorem exec_presentRnd {i : Instr} (hi : ∀ x kk, i ≠ .rnd x kk) (r : Byte) (s : State) :
    exec i (presentRnd s r) = mapNext (presentRnd · r) (exec i s) := by
  cases i with
  | ret => exact (unseenByStack_presentRnd r).execRet_eq s
  | call nnn => exact (unseenByStack_presentRnd r).execCall_eq nnn s
  | rnd x kk => exact absurd rfl (hi x kk)
  | ldFromDT | ldToDT | ldToST => rfl
  | _ => exact exec_unseen (unseen_presentRnd r) rfl s

theorem exec_setST {i : Instr} (hi : ∀ x, i ≠ .ldToST x) (a : Byte) (s : State) :
    exec i (setST s a) = mapNext (setST · a) (exec i s) := by
  cases i with
  | ret => exact (unseenByStack_setST a).execRet_eq s
  | call nnn => exact (unseenByStack_setST a).execCall_eq nnn s
  | rnd x kk => exact (unseenByRnd_setST a).execRnd_eq (unseen_setST a) x kk s
  | ldToST x => exact absurd rfl (hi x)
  | ldFromDT | ldToDT => rfl
  | _ => exact exec_unseen (unseen_setST a) rfl s

theorem exec_setDT {i : Instr} (hi : ∀ x, i ≠ .ldToDT x) (hi' : ∀ x, i ≠ .ldFromDT x) (a : Byte) (s : State) :
    exec i (setDT s a) = mapNext (setDT · a) (exec i s) := by
  cases i with
  | ret => exact (unseenByStack_setDT a).execRet_eq s
  | call nnn => exact (unseenByStack_setDT a).execCall_eq nnn s
  | rnd x kk => exact (unseenByRnd_setDT a).execRnd_eq (unseen_setDT a) x kk s
  | ldToDT x => exact absurd rfl (hi x)
  | ldFromDT x => exact absurd rfl (hi' x)
  | ldToST => rfl
  | _ => exact exec_unseen (unseen_setDT a) rfl s

theorem stepWith_eq_mapNext (r : Byte) (s : State) : stepWith r s = mapNext dropRnd (step (presentRnd s r)) := by
  unfold stepWith mapNext
  split <;> simp [*]

/-- A step that does not execute `RND` is the step with no byte presented, whatever byte is. -/
theorem stepWith_of_not_rnd (hrnd : ∀ x kk, decodeWord (nextWord s) ≠ some (.rnd x kk)) (r : Byte) :
    stepWith r s = mapNext dropRnd (step s) := by
  have hstep : step (presentRnd s r) = mapNext (presentRnd · r) (step s) :=
    step_unseen (unseen_presentRnd r) fun i hi => exec_presentRnd (fun x kk he => hrnd x kk (he ▸ hi)) r _
  rw [stepWith_eq_mapNext, hstep, mapNext_mapNext]
  rfl

/-- Settles O12: an instruction that does not name `rnd`, `ST` or `DT` commutes with presenting or setting it. -/
theorem stepReadsRndAndTimersOnlyWhereNamed : Obligations.StepReadsRndAndTimersOnlyWhereNamed := by
  refine ⟨fun s a b hrnd => (stepWith_of_not_rnd hrnd a).trans (stepWith_of_not_rnd hrnd b).symm, fun s a hST => ?_,
    fun s a hToDT hFromDT => ?_⟩
  · have hstep : step (setST s a) = mapNext (setST · a) (step s) :=
      step_unseen (unseen_setST a) fun i hi => exec_setST (fun x he => hST x (he ▸ hi)) a _
    exact (congrArg nextOf hstep).trans (nextOf_mapNext _ _)
  · have hstep : step (setDT s a) = mapNext (setDT · a) (step s) :=
      step_unseen (unseen_setDT a) fun i hi =>
        exec_setDT (fun x he => hToDT x (he ▸ hi)) (fun x he => hFromDT x (he ▸ hi)) a _
    exact (congrArg nextOf hstep).trans (nextOf_mapNext _ _)

/-! ### Stale stack slots -/

theorem exec_setStack {i : Instr} (hi : storageOf i ≠ .stack) (k : Vector Word 16) (s : State) :
    exec i (setStack s k) = mapNext (setStack · k) (exec i s) := by
  cases i with
  | ret | call => exact absurd rfl hi
  | rnd x kk => exact (unseenByRnd_setStack k).execRnd_eq (unseen_setStack k) x kk s
  | ldFromDT | ldToDT | ldToST => rfl
  | _ => exact exec_unseen (unseen_setStack k) rfl s

theorem execRet_setStack {k : Vector Word 16} (hk : ∀ j : Fin 16, j.val < s.sp.toNat → k[j] = readSlot s j)
    (h : execRet s = .next t) : ∃ t', execRet (setStack s k) = .next t' ∧ SameButStaleSlots t t' := by
  obtain ⟨hsp, rfl⟩ | ⟨j, hsp, hj, rfl⟩ := execRet_cases h
  · exact ⟨_, if_pos hsp, rfl, hk⟩
  · have hpos : 0 < s.sp.toNat := Nat.pos_of_ne_zero fun h0 => hsp (BitVec.eq_of_toNat_eq h0)
    have hpred := byte_pred_toNat hpos
    have hslot : readSlot (setStack s k) j = readSlot s j := hk j (by omega)
    refine ⟨_, exec_ret_of_slot (s := setStack s k) (j := j) (show s.sp.toNat = _ by omega), ?_, fun i hi => hk i ?_⟩
    · rw [hslot]
      rfl
    · rw [jump_sp, setSP_sp] at hi
      omega

theorem execCall_setStack {nnn : Addr} {k : Vector Word 16} (hk : ∀ j : Fin 16, j.val < s.sp.toNat → k[j] = readSlot s j)
    (h : execCall nnn s = .next t) : ∃ t', execCall nnn (setStack s k) = .next t' ∧ SameButStaleSlots t t' := by
  obtain ⟨hsp, rfl⟩ | ⟨j, hj, rfl⟩ := execCall_cases h
  · exact ⟨_, if_pos hsp, rfl, hk⟩
  · refine ⟨_, exec_call_of_slot (s := setStack s k) (j := j) hj, rfl, fun i hi => ?_⟩
    rw [jump_sp, pushSlot_sp, byte_succ_toNat (by omega)] at hi
    rw [readSlot_jump, readSlot_jump, readSlot_pushSlot, readSlot_pushSlot]
    by_cases hij : i = j
    · rw [if_pos hij, if_pos hij]
      rfl
    · rw [if_neg hij, if_neg hij]
      exact hk i (by have := Fin.val_ne_of_ne hij; omega)

/-- Settles O28: `RET` pops the slot just below `SP`, `CALL` overwrites the one at `SP`, and the others leave the stack
alone. -/
theorem staleStackSlotsAreNeverRead : Obligations.StaleStackSlotsAreNeverRead := by
  intro i s s' t ⟨hs', hslots⟩ h
  rw [hs']
  by_cases hi : storageOf i = .stack
  · obtain rfl | ⟨nnn, rfl⟩ := storageOf_eq_stack hi
    · exact execRet_setStack hslots h
    · exact execCall_setStack hslots h
  · have hf := only_of_exec h
    refine ⟨setStack t s'.stack, ?_, rfl, fun j hj => ?_⟩
    · exact (exec_setStack hi s'.stack s).trans (congrArg _ h)
    · exact (hslots j (hf.sp_eq hi ▸ hj)).trans (readSlot_congr (hf.stack_eq hi) j).symm

end Sys2Proof.Machine
end

section
/-! The step seen from outside: unrecognised words and their warning, and what the fetch reads. -/

namespace Sys2Proof.Machine

variable {s : State}

/-! ### Unrecognised words -/

/-- The branch of a step that meets an unrecognised word (40_cycle.md R105). -/
theorem step_of_decodeWord_eq_none (hs : s.halted = false) (hw : decodeWord (fetchWord s) = none) :
    step s = .next (advance s) := by
  simp [step, hs, hw, unrecognisedWord]

/-- The warning output, as the three cases of its definition leave it (60_exceptions.md R249). -/
theorem warningOf_eq_some_iff {w : Warning} : warningOf s = some w ↔
    s.halted = false ∧ decodeWord (fetchWord s) = none ∧ (⟨fetchWord s, s.pc⟩ : Warning) = w := by
  unfold warningOf
  cases s.halted <;> cases decodeWord (fetchWord s) <;> simp

/-- Settles O7: the unrecognised branch of the step, and its warning. -/
theorem unrecognisedWordOnlyAdvancesPc : Obligations.UnrecognisedWordOnlyAdvancesPc := fun _ hs hw =>
  ⟨step_of_decodeWord_eq_none hs hw, warningOf_eq_some_iff.2 ⟨hs, hw, rfl⟩⟩

/-- Settles O8: the warning names its word and its address, and nothing else. -/
theorem warningExactlyForUnrecognisedWords : Obligations.WarningExactlyForUnrecognisedWords := by
  rintro s ⟨word, addr⟩
  rw [warningOf_eq_some_iff, ← fetchWord_eq_nextWord, Warning.mk.injEq, eq_comm (a := fetchWord s), eq_comm (a := s.pc)]

/-! ### The fetch -/

/-- A read depends on its address modulo 4096 alone (20_memory.md R54). -/
theorem memRead_of_mod_eq {a b : Nat} (h : a % 4096 = b % 4096) : memRead s a = memRead s b := by
  rw [← memRead_mod, h, memRead_mod]

/-- Settles O10: both byte addresses of the fetch are read modulo 4096. -/
theorem fetchReducesPcModulo4096 : Obligations.FetchReducesPcModulo4096 := by
  refine ⟨fun s p hp => ?_, fun s hpc => ?_⟩
  · exact congrArg₂ wordOfBytes (memRead_of_mod_eq hp) (memRead_of_mod_eq (show (p.toNat + 1) % 4096 = _ by omega))
  · exact congrArg₂ wordOfBytes (memRead_of_mod_eq (by omega)) (memRead_of_mod_eq (by omega))

/-! ### A write by the host -/

theorem addr_mod (a : Addr) : a.toNat % 4096 = a.toNat := Nat.mod_eq_of_lt a.isLt

/-- A read after a write by the host (20_memory.md R61). -/
theorem memRead_hostWrite (hm : Memory.wf s.config.resetByte s.mem = true) (a : Addr) (v : Byte) (b : Nat) :
    memRead (memWrite s a.toNat v) b = if b % 4096 = a.toNat then v else memRead s b := by
  rw [memRead_memWrite s hm, addr_mod]

/-- Settles O11: the two bytes of the fetched word lie at distinct addresses, and a read after the write tells which was
written. -/
theorem nextFetchSeesAWrittenByte : Obligations.NextFetchSeesAWrittenByte := by
  intro s a b hm
  refine ⟨_, rfl, rfl, fun hhi => ?_, fun hlo => ?_, fun hhi hlo => ?_⟩
  · exact congrArg₂ wordOfBytes ((memRead_hostWrite hm ..).trans (if_pos hhi))
      ((memRead_hostWrite hm ..).trans (if_neg (show ¬ (s.pc.toNat + 1) % 4096 = _ by omega)))
  · exact congrArg₂ wordOfBytes ((memRead_hostWrite hm ..).trans (if_neg (show ¬ s.pc.toNat % 4096 = _ by omega)))
      ((memRead_hostWrite hm ..).trans (if_pos hlo))
  · exact congrArg₂ wordOfBytes ((memRead_hostWrite hm ..).trans (if_neg hhi))
      ((memRead_hostWrite hm ..).trans (if_neg hlo))

end Sys2Proof.Machine
end

section
/-! Memory through the instructions and the host: every write changes the bytes it names, whose frame is proved once. -/

namespace Sys2Proof.Machine

variable {s : State}

/-! ### A write of memory and its frame -/

/-- When only memory is replaced, the frame is what it reads as. -/
theorem onlyMemory_of_sameMemoryBut {P : Nat → Prop} {m : Memory} (h : SameMemoryBut P s { s with mem := m }) :
    OnlyMemory P s { s with mem := m } :=
  ⟨h, readReg_congr rfl, rfl, rfl, ⟨rfl, readSlot_congr rfl⟩, ⟨rfl, rfl⟩, fun _ _ => rfl, ⟨rfl, rfl, rfl⟩, ⟨rfl, rfl⟩,
    ⟨rfl, rfl⟩⟩

/-- Settles O49: a read at the written address answers the byte, and one at any other address answers as before. -/
theorem hostPortReadsWhatItWrote : Obligations.HostPortReadsWhatItWrote := by
  intro s a v hm
  refine ⟨memWrite s a.toNat v, rfl, onlyMemory_of_sameMemoryBut fun b hb hne => ?_, ?_, rfl, fun b hb => ?_⟩
  · exact (memRead_hostWrite hm ..).trans (if_neg (by rwa [Nat.mod_eq_of_lt hb]))
  · exact congrArg HostReply.byte ((memRead_hostWrite hm ..).trans (if_pos (addr_mod a)))
  · exact congrArg HostReply.byte ((memRead_hostWrite hm ..).trans (if_neg (by rwa [addr_mod, BitVec.toNat_inj])))

/-! ### Register dump and register load -/

/-- The dump of V0 to Vx, read back (43_index_memory.md R175). -/
theorem memRead_storeRegs (hm : Memory.wf s.config.resetByte s.mem = true) {x k : RegIdx} (hk : k.toNat ≤ x.toNat) :
    memRead (storeV s (x.toNat + 1)) (dataAddr s.i k.toNat) = readReg s k :=
  (memRead_storeV s hm x.isLt (Nat.lt_succ_of_le hk)).trans
    (by rw [BitVec.ofNat_toNat, BitVec.setWidth_eq])

theorem onlyMemory_storeRegs (hm : Memory.wf s.config.resetByte s.mem = true) (x : RegIdx) :
    OnlyMemory (fun a => ∃ k ≤ x.toNat, a = dataAddr s.i k) s (storeV s (x.toNat + 1)) := by
  rw [storeV_eq]
  refine onlyMemory_of_sameMemoryBut fun a ha hP => ?_
  rw [← storeV_eq]
  refine memRead_storeV_other s hm fun k hk he => hP ⟨k, Nat.le_of_lt_succ hk, ?_⟩
  rwa [Nat.mod_eq_of_lt ha] at he

/-- Settles O32: the dump writes the byte of each register at its own address and no other byte. -/
theorem registerDumpStoresV0ToVx : Obligations.RegisterDumpStoresV0ToVx := fun _ x hm =>
  ⟨_, rfl, fun _ hk => memRead_storeRegs hm hk, onlyMemory_storeRegs hm x⟩

/-- The load of V0 to Vx (43_index_memory.md R176). -/
theorem readReg_loadRegs (s : State) {x k : RegIdx} (hk : k.toNat ≤ x.toNat) :
    readReg (loadV s (x.toNat + 1)) k = memRead s (dataAddr s.i k.toNat) :=
  (readReg_loadV s x.isLt k).trans (if_pos (Nat.lt_succ_of_le hk))

theorem onlyRegs_loadRegs (s : State) (x : RegIdx) : OnlyRegs (fun r => r.toNat ≤ x.toNat) s (loadV s (x.toNat + 1)) := by
  rw [loadV_eq]
  refine onlyRegs_of_sameRegsBut fun r hr => ?_
  rw [← loadV_eq]
  exact (readReg_loadV s x.isLt r).trans (if_neg (mt Nat.le_of_lt_succ hr))

/-- Settles O33: the load writes the registers up to `x`, each from its own byte. -/
theorem registerLoadReadsV0ToVx : Obligations.RegisterLoadReadsV0ToVx := fun s x =>
  ⟨_, rfl, fun _ hk => readReg_loadRegs s hk, onlyRegs_loadRegs s x⟩

/-- Settles O34: the load reads, through the same `I` and the same memory, the bytes that the dump wrote. -/
theorem loadBringsBackTheDump : Obligations.LoadBringsBackTheDump := by
  intro s x hm
  refine ⟨storeV s (x.toNat + 1), rfl, fun u hmem hconfig hi => ⟨_, rfl, fun k hk => ?_⟩⟩
  rw [readReg_loadRegs u hk, memRead_congr hmem hconfig, hi, storeV_i]
  exact memRead_storeRegs hm hk

/-! ### Decimal digits -/

/-- Three consecutive bytes written through `I`, read back: their addresses are pairwise distinct. -/
theorem memRead_three_writes (hm : Memory.wf s.config.resetByte s.mem = true) (b₀ b₁ b₂ : Byte) (a : Nat) :
    memRead (memWrite (memWrite (memWrite s (dataAddr s.i 0) b₀) (dataAddr s.i 1) b₁) (dataAddr s.i 2) b₂) a =
      if a % 4096 = dataAddr s.i 2 then b₂ else if a % 4096 = dataAddr s.i 1 then b₁
      else if a % 4096 = dataAddr s.i 0 then b₀ else memRead s a := by
  have hm₁ := memWrite_wf s hm (dataAddr s.i 0) b₀
  have hm₂ := memWrite_wf _ hm₁ (dataAddr s.i 1) b₁
  rw [memRead_memWrite _ hm₂, memRead_memWrite _ hm₁, memRead_memWrite _ hm, dataAddr_mod, dataAddr_mod, dataAddr_mod]

theorem dataAddr_ne (base : Word) {j k : Nat} (hj : j < 16) (hk : k < 16) (hne : j ≠ k) :
    dataAddr base j ≠ dataAddr base k :=
  fun h => hne (dataAddr_inj hj hk h)

/-- Settles O31: the three digits are read back from three distinct addresses, and any other byte as before. -/
theorem decimalDigitsAreStoredAtI : Obligations.DecimalDigitsAreStoredAtI := by
  intro s x hm
  have h01 : dataAddr s.i 0 ≠ dataAddr s.i 1 := dataAddr_ne s.i (by decide) (by decide) (by decide)
  have h02 : dataAddr s.i 0 ≠ dataAddr s.i 2 := dataAddr_ne s.i (by decide) (by decide) (by decide)
  have h12 : dataAddr s.i 1 ≠ dataAddr s.i 2 := dataAddr_ne s.i (by decide) (by decide) (by decide)
  refine ⟨_, rfl, ?_, ?_, ?_, onlyMemory_of_sameMemoryBut fun a ha hP => ?_⟩
  · rw [memRead_three_writes hm, dataAddr_mod, if_neg h02, if_neg h01, if_pos rfl, hundreds]
  · rw [memRead_three_writes hm, dataAddr_mod, if_neg h12, if_pos rfl, tens]
  · rw [memRead_three_writes hm, dataAddr_mod, if_pos rfl, ones]
  · have hother (k : Nat) (hk : k < 3) : ¬ a % 4096 = dataAddr s.i k := by
      rw [Nat.mod_eq_of_lt ha]
      exact fun h => hP ⟨k, hk, h⟩
    exact (memRead_three_writes hm ..).trans ((if_neg (hother 2 (by decide))).trans ((if_neg (hother 1 (by decide))).trans
      (if_neg (hother 0 (by decide)))))

/-! ### Program loading -/

/-- Loading `image` from address `a` up: the host's writes one after another (70_reset_and_hazards.md R263). -/
def loadFrom (s : State) (a : Nat) : List Byte → State
  | [] => s
  | b :: image => loadFrom (memWrite s a b) (a + 1) image

/-- The host's writes are those of `loadFrom`, while the addresses fit 12 bits. -/
theorem performAll_loadOps {image : List Byte} {a : Nat} (s : State) (ha : a + image.length ≤ 4096) :
    performAll (loadOps a image) s = .next (loadFrom s a image) := by
  induction image generalizing a s with
  | nil => rfl
  | cons b image ih =>
    rw [List.length_cons] at ha
    have haddr : (BitVec.ofNat 12 a).toNat = a := Nat.mod_eq_of_lt (by omega)
    have hwrite : perform (.hostWrite (BitVec.ofNat 12 a) b) s = .next (memWrite s a b) := by rw [perform, haddr]
    rw [loadOps, performAll_cons hwrite]
    exact ih _ (by omega)

theorem loadFrom_eq (s : State) (a : Nat) (image : List Byte) :
    loadFrom s a image = { s with mem := (loadFrom s a image).mem } := by
  induction image generalizing a s with
  | nil => rfl
  | cons b image ih => rw [loadFrom, ih]; rfl

theorem memRead_loadFrom_other {image : List Byte} {a c : Nat} (hm : Memory.wf s.config.resetByte s.mem = true)
    (ha : a + image.length ≤ 4096) (hc : ¬ (a ≤ c % 4096 ∧ c % 4096 < a + image.length)) :
    memRead (loadFrom s a image) c = memRead s c := by
  induction image generalizing a s with
  | nil => rfl
  | cons b image ih =>
    rw [List.length_cons] at ha hc
    rw [loadFrom, ih (memWrite_wf s hm a b) (by omega) (by omega), memRead_memWrite s hm, if_neg (by omega)]

theorem memRead_loadFrom {image : List Byte} {a k : Nat} (hm : Memory.wf s.config.resetByte s.mem = true)
    (ha : a + image.length ≤ 4096) (hk : k < image.length) : memRead (loadFrom s a image) (a + k) = image[k] := by
  induction image generalizing a s k with
  | nil => exact absurd hk (Nat.not_lt_zero k)
  | cons b image ih =>
    rw [List.length_cons] at ha hk
    have hm' := memWrite_wf s hm a b
    cases k with
    | zero =>
      exact (memRead_loadFrom_other hm' (by omega) (by omega)).trans ((memRead_memWrite s hm a b a).trans (if_pos rfl))
    | succ k =>
      have hrest := ih hm' (a := a + 1) (by omega) (Nat.lt_of_succ_lt_succ hk)
      rwa [Nat.succ_add_eq_add_succ] at hrest

/-- Settles O51: the addresses from 0x200 up fit 12 bits for at most 3584 bytes, each byte lands at its own, and a longer
image is refused at once. -/
theorem programLoadingPlacesTheImage : Obligations.ProgramLoadingPlacesTheImage := by
  refine ⟨fun s image hm hlen => ?_, fun s image hlen => if_neg (by omega)⟩
  have hfits : 0x200 + image.length ≤ 4096 := by omega
  refine ⟨_, (if_pos hlen).trans (performAll_loadOps s hfits), fun k hk => memRead_loadFrom hm hfits hk, ?_⟩
  rw [loadFrom_eq]
  refine onlyMemory_of_sameMemoryBut fun a ha hP => ?_
  rw [← loadFrom_eq]
  exact memRead_loadFrom_other hm hfits (by rwa [Nat.mod_eq_of_lt ha])

end Sys2Proof.Machine
end

section
/-! The drawing loop computes the set of 44_display.md R193: a sprite has at most 15 rows and 8 columns, so none of its
bits lands on the pixel of another. -/

namespace Sys2Proof.Machine

/-! ### Inverting a set of pixels -/

/-- From `d` to `e` the pixels in `P` are inverted and the others kept, and the collision flag is raised when a pixel in
`P` was set (44_display.md R193, R194). -/
structure Inverts (P : Fin 32 → Fin 64 → Prop) (d e : FrameBuffer × Bool) : Prop where
  inside : ∀ r c, P r c → pixel e.1 r c = !pixel d.1 r c
  outside : ∀ r c, ¬ P r c → pixel e.1 r c = pixel d.1 r c
  hit : e.2 = true ↔ d.2 = true ∨ ∃ r c, P r c ∧ pixel d.1 r c = true

theorem Inverts.refl {P : Fin 32 → Fin 64 → Prop} (hP : ∀ r c, ¬ P r c) (d : FrameBuffer × Bool) : Inverts P d d where
  inside r c h := absurd h (hP r c)
  outside _ _ _ := rfl
  hit := ⟨.inl, (Or.elim · id fun ⟨r, c, h, _⟩ => absurd h (hP r c))⟩

/-- Inverting one set and then a disjoint one inverts their union. -/
theorem Inverts.trans {P Q R : Fin 32 → Fin 64 → Prop} {d e f : FrameBuffer × Bool} (hde : Inverts P d e)
    (hef : Inverts Q e f) (hR : ∀ r c, R r c ↔ P r c ∨ Q r c) (hdisj : ∀ r c, P r c → ¬ Q r c) : Inverts R d f where
  inside r c h := by
    obtain hP | hQ := (hR r c).1 h
    · rw [hef.outside r c (hdisj r c hP), hde.inside r c hP]
    · rw [hef.inside r c hQ, hde.outside r c fun hP => hdisj r c hP hQ]
  outside r c h := by
    obtain ⟨hP, hQ⟩ := not_or.1 (mt (hR r c).2 h)
    rw [hef.outside r c hQ, hde.outside r c hP]
  hit := by
    have hkept (r c) (hQ : Q r c) : pixel e.1 r c = pixel d.1 r c := hde.outside r c fun hP => hdisj r c hP hQ
    rw [hef.hit, hde.hit, or_assoc]
    refine or_congr_right ⟨?_, ?_⟩
    · rintro (⟨r, c, hP, hset⟩ | ⟨r, c, hQ, hset⟩)
      · exact ⟨r, c, (hR r c).2 (.inl hP), hset⟩
      · exact ⟨r, c, (hR r c).2 (.inr hQ), hkept r c hQ ▸ hset⟩
    · rintro ⟨r, c, h, hset⟩
      obtain hP | hQ := (hR r c).1 h
      · exact .inl ⟨r, c, hP, hset⟩
      · exact .inr ⟨r, c, hQ, (hkept r c hQ).trans hset⟩

/-! ### One bit, one row, the sprite -/

/-- The pixel `(r, c)` is that of the sprite bit at `(row, col)`, and the bit is set. -/
def IsBit (b cx cy : Byte) (row col : Nat) (r : Fin 32) (c : Fin 64) : Prop :=
  spriteBit b col = true ∧ r = pixelRow cy row ∧ c = pixelCol cx col

/-- The pixel `(r, c)` is that of a set bit among the first `n` of row `row`. -/
def InRow (b cx cy : Byte) (row n : Nat) (r : Fin 32) (c : Fin 64) : Prop := ∃ col < n, IsBit b cx cy row col r c

theorem inverts_drawBit (b cx cy : Byte) (row col : Nat) (d : FrameBuffer × Bool) :
    Inverts (IsBit b cx cy row col) d (drawBit b cx cy row col d) where
  inside r c := fun ⟨hbit, hr, hc⟩ => by simp [pixel_drawBit, hbit, hr, hc]
  outside r c h := by
    have hoff : (spriteBit b col && decide (r = pixelRow cy row ∧ c = pixelCol cx col)) = false := by
      simpa [IsBit] using h
    rw [pixel_drawBit, hoff, Bool.xor_false]
  hit := by simp [hit_drawBit, IsBit]

theorem pixelCol_inj {cx : Byte} {j k : Nat} (hj : j < 64) (hk : k < 64) (h : pixelCol cx j = pixelCol cx k) : j = k := by
  have hval : (cx.toNat + j) % 64 = (cx.toNat + k) % 64 := congrArg Fin.val h
  omega

theorem pixelRow_inj {cy : Byte} {j k : Nat} (hj : j < 32) (hk : k < 32) (h : pixelRow cy j = pixelRow cy k) : j = k := by
  have hval : (cy.toNat + j) % 32 = (cy.toNat + k) % 32 := congrArg Fin.val h
  omega

theorem inverts_drawBits (b cx cy : Byte) (row : Nat) (d : FrameBuffer × Bool) {n : Nat} (hn : n ≤ 64) :
    Inverts (InRow b cx cy row n) d (drawBits b cx cy row d n) := by
  induction n with
  | zero => exact Inverts.refl (fun _ _ ⟨_, h, _⟩ => Nat.not_lt_zero _ h) d
  | succ n ih =>
    refine (ih (by omega)).trans (inverts_drawBit b cx cy row n _) (fun r c => Nat.exists_lt_succ_right) ?_
    rintro r c ⟨col, hcol, -, -, hc⟩ ⟨-, -, hc'⟩
    exact absurd (pixelCol_inj (by omega) hn (hc.symm.trans hc')) (by omega)

variable {s : State}

theorem inSprite_iff {cx cy : Byte} {base : Word} {n : Nat} {r : Fin 32} {c : Fin 64} :
    InSprite s cx cy base n r c ↔ ∃ row < n, InRow (memRead s (dataAddr base row)) cx cy row 8 r c := by
  simp only [InSprite, InRow, IsBit, spriteBit, dataAddr, pixelRow, pixelCol, Fin.ext_iff, Fin.val_ofNat]

/-- The drawing loop inverts the pixels of the sprite. -/
theorem inverts_drawSprite (s : State) (cx cy : Byte) (base : Word) {n : Nat} (hn : n ≤ 32) :
    Inverts (InSprite s cx cy base n) (s.fb, false) (drawSprite s cx cy base n) := by
  induction n with
  | zero => exact Inverts.refl (fun _ _ ⟨_, h, _⟩ => Nat.not_lt_zero _ h) _
  | succ n ih =>
    refine (ih (by omega)).trans (inverts_drawBits _ cx cy n _ (by decide))
      (fun r c => by rw [inSprite_iff, inSprite_iff, Nat.exists_lt_succ_right]) fun r c h => ?_
    rintro ⟨-, -, -, hr, -⟩
    obtain ⟨row, hrow, -, -, -, hr', -⟩ := inSprite_iff.1 h
    exact absurd (pixelRow_inj (by omega) hn (hr'.symm.trans hr)) (by omega)

/-! ### `DRW Vx, Vy, n` -/

theorem onlyDisplayAndVF_writeReg_setFB (s : State) (fb : FrameBuffer) (a : Byte) :
    OnlyDisplayAndVF s (writeReg (setFB s fb) VF a) :=
  ⟨fun _ hr => (readReg_writeReg ..).trans (if_neg hr), rfl, rfl, ⟨rfl, readSlot_congr rfl⟩, ⟨rfl, rfl⟩,
    memRead_congr rfl rfl, ⟨rfl, rfl, rfl⟩, ⟨rfl, rfl⟩, ⟨rfl, rfl⟩⟩

/-- What `DRW` does: it inverts the sprite's pixels and puts the collision in VF (44_display.md R192 to R194). -/
theorem exec_drw (x y : RegIdx) (n : Nibble) (s : State) : ∃ fb hit,
    exec (.drw x y n) s = .next (writeReg (setFB s fb) VF (flagByte hit)) ∧
      Inverts (InSprite s (readReg s x) (readReg s y) s.i n.toNat) (s.fb, false) (fb, hit) :=
  ⟨_, _, rfl, inverts_drawSprite s _ _ _ (by have := n.isLt; omega)⟩

/-- A drawing that starts with the collision flag clear raises it exactly for a pixel of the set that was set. -/
theorem Inverts.hit_iff {P : Fin 32 → Fin 64 → Prop} {fb fb' : FrameBuffer} {hit : Bool}
    (h : Inverts P (fb, false) (fb', hit)) : hit = true ↔ ∃ r c, P r c ∧ pixel fb r c = true :=
  h.hit.trans (or_iff_right Bool.false_ne_true)

/-- VF after the flag is written, from what the flag says. -/
theorem readReg_VF_of_hit (s : State) {hit : Bool} {p : Prop} (h : hit = true ↔ p) :
    (p → readReg (writeReg s VF (flagByte hit)) VF = 1#8) ∧ (¬ p → readReg (writeReg s VF (flagByte hit)) VF = 0#8) := by
  rw [readReg_writeReg_self, ← h]
  cases hit <;> simp [flagByte]

/-- Settles O36: the drawing loop inverts the sprite's pixels, and its flag is the collision. -/
theorem drawXorsTheSpriteAndReportsCollision : Obligations.DrawXorsTheSpriteAndReportsCollision := by
  intro s x y n
  obtain ⟨fb, hit, hexec, hinv⟩ := exec_drw x y n s
  obtain ⟨hset, hclear⟩ := readReg_VF_of_hit (setFB s fb) hinv.hit_iff
  exact ⟨_, hexec, hinv.inside, hinv.outside, hset, hclear, onlyDisplayAndVF_writeReg_setFB s fb _⟩

/-- Inverting a set of pixels twice gives the display back. -/
theorem Inverts.fb_eq_of_twice {P : Fin 32 → Fin 64 → Prop} {d e f : FrameBuffer × Bool} {b : Bool} (hde : Inverts P d e)
    (hef : Inverts P (e.1, b) f) : f.1 = d.1 := by
  refine fb_ext fun r c => ?_
  by_cases hP : P r c
  · rw [hef.inside r c hP, hde.inside r c hP, Bool.not_not]
  · rw [hef.outside r c hP, hde.outside r c hP]

/-- Settles O37: the second draw inverts the same pixels in the first one's display, where one is set exactly when it was
clear before. -/
theorem drawingTwiceErases : Obligations.DrawingTwiceErases := by
  intro s x y n hx hy
  obtain ⟨fb, hit, hexec, hinv⟩ := exec_drw x y n s
  obtain ⟨fb', hit', hexec', hinv'⟩ := exec_drw x y n (writeReg (setFB s fb) VF (flagByte hit))
  rw [readReg_writeReg, if_neg hx, readReg_writeReg, if_neg hy] at hinv'
  change Inverts (InSprite s (readReg s x) (readReg s y) s.i n.toNat) (fb, false) (fb', hit') at hinv'
  have hflip (r c) : InSprite s (readReg s x) (readReg s y) s.i n.toNat r c ∧ pixel fb r c = true ↔
      InSprite s (readReg s x) (readReg s y) s.i n.toNat r c ∧ pixel s.fb r c = false :=
    and_congr_right fun hin => by rw [hinv.inside r c hin, Bool.not_eq_true']
  have hhit := hinv'.hit_iff.trans (exists_congr fun r => exists_congr (hflip r))
  exact ⟨_, _, hexec, hexec', hinv.fb_eq_of_twice hinv', readReg_VF_of_hit _ hhit⟩

end Sys2Proof.Machine
end

section
/-! Logic, shifts and the random byte. -/

namespace Sys2Proof.Machine

/-! ### Logic and shifts -/

/-- Settles O14: the byte written is the bitwise operation of the two operands, which a bit of it reads off. -/
theorem logicWritesOnlyVx : Obligations.LogicWritesOnlyVx := fun _ _ _ =>
  ⟨⟨_, writes_of_exec_eq_writeReg rfl, fun _ => BitVec.getLsbD_or⟩,
    ⟨_, writes_of_exec_eq_writeReg rfl, fun _ => BitVec.getLsbD_and⟩,
    ⟨_, writes_of_exec_eq_writeReg rfl, fun _ => BitVec.getLsbD_xor⟩⟩

theorem byte_ushiftRight_one_eq_ofNat (a : Byte) : a >>> 1 = BitVec.ofNat 8 (a.toNat / 2) := by
  apply BitVec.eq_of_toNat_eq
  have ha := a.isLt
  rw [BitVec.toNat_ushiftRight, BitVec.toNat_ofNat, Nat.shiftRight_one, Nat.mod_eq_of_lt (by omega)]

theorem byte_shiftLeft_one_eq_ofNat (a : Byte) : a <<< 1 = BitVec.ofNat 8 (2 * a.toNat % 256) := by
  apply BitVec.eq_of_toNat_eq
  rw [BitVec.toNat_shiftLeft, BitVec.toNat_ofNat, Nat.shiftLeft_eq, Nat.mod_mod, Nat.mul_comm]

theorem flagByte_eq_ofNat (f : Bool) : flagByte f = BitVec.ofNat 8 f.toNat := by cases f <;> rfl

theorem flagByte_lowBit (a : Byte) : flagByte (lowBit a) = BitVec.ofNat 8 (a.toNat % 2) := by
  rw [flagByte_eq_ofNat, lowBit, BitVec.getLsbD, Nat.toNat_testBit, Nat.pow_zero, Nat.div_one]

theorem flagByte_highBit (a : Byte) : flagByte (highBit a) = BitVec.ofNat 8 (a.toNat / 128) := by
  have ha := a.isLt
  rw [flagByte_eq_ofNat, highBit, BitVec.getLsbD, Nat.toNat_testBit, Nat.mod_eq_of_lt (by omega)]

/-- Settles O18: one `writeRegFlag` each, of the half or the double and of the bit shifted out. -/
theorem shiftsSetTheBitShiftedOut : Obligations.ShiftsSetTheBitShiftedOut := by
  intro s x y
  rw [← byte_ushiftRight_one_eq_ofNat, ← flagByte_lowBit, ← byte_shiftLeft_one_eq_ofNat, ← flagByte_highBit]
  exact ⟨writesWithFlag_of_exec_eq_writeRegFlag rfl, writesWithFlag_of_exec_eq_writeRegFlag rfl⟩

/-! ### The random byte -/

theorem dropRnd_of_none {s : State} (h : s.rndIn = none) : dropRnd s = s := by rw [dropRnd, ← h]

/-- Settles O19: the byte presented is the one masked, and dropping it leaves the random input as it was. -/
theorem stepWithRndMasksTheGivenByte : Obligations.StepWithRndMasksTheGivenByte := by
  intro s rnd x kk hs hnone hi
  have hstep : step (presentRnd s rnd) = exec (.rnd x kk) (advance (presentRnd s rnd)) := step_of_decodeWord_eq_some hs hi
  have ht : stepWith rnd s = .next (writeReg (advance (dropRnd s)) x (rnd &&& kk)) := stepWith_of_step hstep
  rw [dropRnd_of_none hnone] at ht
  exact ⟨_, ht, readReg_writeReg_self _ x _, onlyRegs_writeReg (advance s) x _⟩

theorem rndByte_of_some {s : State} {r : Byte} (h : s.rndIn = some r) : rndByte s = r := by simp [rndByte, h]

theorem rndByte_of_none {s : State} (h : s.rndIn = none) : rndByte s = Config.freeRnd s.draws := by simp [rndByte, h]

theorem onlyRegsAndRandom_writeReg_consumeRnd (s : State) (x : RegIdx) (a : Byte) :
    OnlyRegsAndRandom (· = x) s (writeReg (consumeRnd s) x a) :=
  ⟨fun r hr => (readReg_writeReg ..).trans ((if_neg hr).trans (readReg_consumeRnd s r)), by simp, by simp,
    ⟨by simp, readSlot_congr (by simp)⟩, ⟨by simp, by simp⟩, fun _ _ => by simp, fun _ => by simp,
    ⟨by simp, by simp, by simp⟩, ⟨by simp, by simp⟩⟩

/-- Settles O20: the byte masked is the one presented, else the free byte of this draw, which is then counted. -/
theorem rndCompletesOnAFreeByte : Obligations.RndCompletesOnAFreeByte := by
  intro s x kk
  refine ⟨_, rfl, onlyRegsAndRandom_writeReg_consumeRnd s x _, consumeRnd_rndIn s, fun r hr => ?_, fun hr => ?_⟩
  · rw [readReg_writeReg_self, rndByte_of_some hr, writeReg_draws, consumeRnd_draws, hr]
    exact ⟨rfl, rfl⟩
  · rw [readReg_writeReg_self, rndByte_of_none hr, writeReg_draws, consumeRnd_draws, hr]
    exact ⟨rfl, rfl⟩

/-! ### Sums of 16 bits -/

/-- Settles O24: the sum of a byte and a 12-bit address is below 65536, so it does not wrap. -/
theorem jumpWithOffsetAddsV0 : Obligations.JumpWithOffsetAddsV0 := by
  intro s nnn
  refine ⟨_, rfl, ?_, onlyPc_jump s _⟩
  have hv := (readReg s 0x0#4).isLt
  have hnnn := nnn.isLt
  rw [jump_pc, zext16_eq_ofNat, zext16_eq_ofNat, BitVec.toNat_add, BitVec.toNat_ofNat, BitVec.toNat_ofNat]
  omega

theorem word_add_zext16_eq_ofNat (a : Word) (b : Byte) :
    a + zext16 b = BitVec.ofNat 16 ((a.toNat + b.toNat) % 65536) := by
  apply BitVec.eq_of_toNat_eq
  rw [zext16_eq_ofNat, BitVec.toNat_add, BitVec.toNat_ofNat, BitVec.toNat_ofNat]
  omega

/-- Settles O30: one `setIndex`, of the 16-bit sum. -/
theorem addToIndexWrapsAt16Bits : Obligations.AddToIndexWrapsAt16Bits := by
  intro s x
  rw [← word_add_zext16_eq_ofNat]
  exact writesIndex_of_exec_eq_setIndex rfl

end Sys2Proof.Machine
end

section
/-! Keypad and timer instructions. -/

namespace Sys2Proof.Machine

variable {s : State}

/-! ### Skips on a key (45_keypad_timers.md R210 to R212) -/

theorem pressed_of_le {keys : BitVec 16} {a : Byte} {k : Fin 16} (h : a.toNat = k.val) :
    pressed keys a = keys.getLsbD k.val := by
  simp [pressed, h, Nat.le_of_lt_succ k.isLt]

theorem pressed_of_gt {keys : BitVec 16} {a : Byte} (h : 16 ≤ a.toNat) : pressed keys a = false := by
  simp [pressed, show ¬ a.toNat ≤ 15 by omega]

theorem skips_of_pressed {x : RegIdx} (h : pressed s.keys (readReg s x) = true) :
    MovesPcTo (.skp x) s (s.pc + 2#16) ∧ MovesPcTo (.sknp x) s s.pc := by
  have hskp := movesPcTo_of_exec_eq_skipIf (i := .skp x) (s := s) rfl
  have hsknp := movesPcTo_of_exec_eq_skipIf (i := .sknp x) (s := s) rfl
  rw [h] at hskp hsknp
  exact ⟨hskp, hsknp⟩

theorem skips_of_not_pressed {x : RegIdx} (h : pressed s.keys (readReg s x) = false) :
    MovesPcTo (.skp x) s s.pc ∧ MovesPcTo (.sknp x) s (s.pc + 2#16) := by
  have hskp := movesPcTo_of_exec_eq_skipIf (i := .skp x) (s := s) rfl
  have hsknp := movesPcTo_of_exec_eq_skipIf (i := .sknp x) (s := s) rfl
  rw [h] at hskp hsknp
  exact ⟨hskp, hsknp⟩

/-- Settles O38: both skips test whether the key in `V[x]` is pressed, and one of 16 or more is not. -/
theorem keySkipsTestTheKeyInVx : Obligations.KeySkipsTestTheKeyInVx := fun _ _ =>
  ⟨fun _ hk hset => skips_of_pressed ((pressed_of_le hk).trans hset),
    fun _ hk hclear => skips_of_not_pressed ((pressed_of_le hk).trans hclear),
    fun hge => skips_of_not_pressed (pressed_of_gt hge)⟩

/-! ### The key wait (45_keypad_timers.md R216) -/

theorem lowestKey_eq_some {keys : BitVec 16} {k : Fin 16} (hk : keys.getLsbD k.val = true)
    (hleast : ∀ j < k.val, keys.getLsbD j = false) : lowestKey keys = some k.val := by
  simpa [lowestKey, List.find?_range_eq_some, hk] using hleast

theorem lowestKey_eq_none {keys : BitVec 16} (h : ∀ j < 16, keys.getLsbD j = false) : lowestKey keys = none := by
  simpa [lowestKey] using h

theorem exec_ldKey_of_pressed {x : RegIdx} {k : Nat} (h : lowestKey s.keys = some k) :
    exec (.ldKey x) s = .next (writeReg s x (BitVec.ofNat 8 k)) := by simp [exec, execLdKey, h]

theorem exec_ldKey_of_none {x : RegIdx} (h : ∀ j < 16, s.keys.getLsbD j = false) :
    exec (.ldKey x) s = .next (rewind s) := by simp [exec, execLdKey, lowestKey_eq_none h]

/-- Settles O39: the search finds the least pressed key, or none. -/
theorem keyWaitTakesTheLeastKeyOrRewinds : Obligations.KeyWaitTakesTheLeastKeyOrRewinds := fun _ _ =>
  ⟨fun _ hk hleast => writes_of_exec_eq_writeReg (exec_ldKey_of_pressed (lowestKey_eq_some hk hleast)),
    fun h => exec_ldKey_of_none h⟩

/-- Settles O40: the rewind undoes the fetch's advance, so the step is a fixed point, hence every run is. -/
theorem keyWaitRepeatsUntilAKey : Obligations.KeyWaitRepeatsUntilAKey := by
  intro s x n hs hkeys hi
  refine run_of_step_eq_self (M := Sys2Proof.core) ?_ n
  have hstep : step s = .next (rewind (advance s)) := (step_of_decodeWord_eq_some hs hi).trans (exec_ldKey_of_none hkeys)
  rwa [rewind_advance] at hstep

/-! ### The timer instructions (45_keypad_timers.md R213 to R215) -/

theorem onlyTimers_setDT (s : State) (a : Byte) : OnlyTimers s (setDT s a) :=
  ⟨readReg_setDT s a, rfl, rfl, ⟨rfl, readSlot_congr rfl⟩, fun _ _ => rfl, memRead_setDT s a, ⟨rfl, rfl, rfl⟩, ⟨rfl, rfl⟩,
    ⟨rfl, rfl⟩⟩

theorem onlyTimers_setST (s : State) (a : Byte) : OnlyTimers s (setST s a) :=
  ⟨readReg_setST s a, rfl, rfl, ⟨rfl, readSlot_congr rfl⟩, fun _ _ => rfl, memRead_setST s a, ⟨rfl, rfl, rfl⟩, ⟨rfl, rfl⟩,
    ⟨rfl, rfl⟩⟩

theorem soundOn_iff : soundOn s = true ↔ s.st ≠ 0x00#8 := bne_iff_ne

/-- Settles O41: each of the three is one write, of a register or of a timer. -/
theorem timerInstructionsMoveOneByte : Obligations.TimerInstructionsMoveOneByte := fun s _ =>
  ⟨writes_of_exec_eq_writeReg rfl, ⟨_, rfl, rfl, rfl, onlyTimers_setDT s _⟩,
    ⟨_, rfl, rfl, rfl, soundOn_iff, onlyTimers_setST s _⟩⟩

end Sys2Proof.Machine
end

section
/-! The host's operations: reset, key writes, reads, and operations presented together. -/

namespace Sys2Proof.Machine

variable {s : State}

/-! ### Reset -/

theorem memRead_of_mem_eq_nil (h : s.mem = []) (a : Nat) : memRead s a = s.config.resetByte (a % 4096) := by
  simp [memRead, h, Memory.read, Memory.lookup]

/-- Byte `b` of glyph `g` is at `5 * g + b` (10_state.md R36). -/
theorem resetByte_glyph (c : Config) (g : Fin 16) (b : Fin 5) : c.resetByte (5 * g + b) = c.font[g][b] := by
  have hdiv : (5 * g.val + b.val) / 5 = g.val := by omega
  have hmod : (5 * g.val + b.val) % 5 = b.val := by omega
  rw [Config.resetByte, dif_pos (by omega)]
  simp only [hdiv, hmod, Fin.getElem_fin]

theorem hasResetValues_resetWith (c : Config) (n : Nat) :
    HasResetValues c.font { State.resetWith c with draws := n } := by
  have hread (a : Nat) (ha : a < 4096) : memRead { State.resetWith c with draws := n } a = c.resetByte a :=
    (memRead_of_mem_eq_nil rfl a).trans (congrArg _ (Nat.mod_eq_of_lt ha))
  refine ⟨fun x => ?_, rfl, rfl, rfl, fun j => ?_, rfl, rfl, fun g b => ?_, fun a hge hlt => ?_, pixel_clear, rfl, rfl,
    rfl, rfl⟩
  · simp [readReg, State.resetWith]
  · simp [readSlot, State.resetWith]
  · rw [hread _ (by omega), resetByte_glyph]
  · rw [hread a hlt, Config.resetByte, dif_neg (by omega)]

/-- Settles O47: a reset rebuilds the reset state for the same parameters. -/
theorem resetLeavesTheResetValues : Obligations.ResetLeavesTheResetValues :=
  ⟨fun s => ⟨_, rfl, rfl, hasResetValues_resetWith s.config s.draws⟩, hasResetValues_resetWith Config.hardware 0⟩

/-! ### Key writes and reads -/

/-- Settles O48: one write of the keypad word. -/
theorem setKeysWritesAllSixteenFlags : Obligations.SetKeysWritesAllSixteenFlags := fun s k =>
  ⟨setKeypad s k, rfl, fun _ _ => rfl, rfl⟩

theorem linearPixels_getElem (fb : FrameBuffer) (r : Fin 32) (c : Fin 64) (h : 64 * r.val + c.val < 2048) :
    (linearPixels fb)[64 * r.val + c.val]'h = pixel fb r c := by
  have hdiv : (64 * r.val + c.val) / 64 = r.val := by omega
  have hmod : (64 * r.val + c.val) % 64 = c.val := by omega
  simp only [linearPixels, Vector.getElem_ofFn, hdiv, hmod, pixel, Fin.getElem_fin]

/-- Settles O50: the display by linear index, and the status with the sound output. -/
theorem readsAnswerTheDisplayAndTheStatus : Obligations.ReadsAnswerTheDisplayAndTheStatus := fun s =>
  ⟨rfl, rfl, ⟨_, rfl, linearPixels_getElem s.fb⟩, soundOn s, rfl, soundOn_iff.trans BitVec.toNat_inj.not.symm⟩

/-! ### Operations presented together -/

theorem performAll_singleton (op : HostOp) (s : State) : performAll [op] s = perform op s := by
  rw [performAll]
  cases perform op s <;> rfl

theorem nextOf_performAll_cons (op : HostOp) (ops : List HostOp) (s : State) :
    nextOf (performAll (op :: ops) s) = (nextOf (perform op s)).bind fun t => nextOf (performAll ops t) := by
  rw [performAll]
  cases perform op s <;> rfl

theorem performTogether_of_serveOrder {ops served : List HostOp} (h : serveOrder ops = some served) :
    performTogether ops s = performAll served s := by simp [performTogether, h]

theorem serveOrder_of_reset_mem {ops : List HostOp} (h : HostOp.reset ∈ ops) : serveOrder ops = some [.reset] := if_pos h

theorem serveOrder_step_tick (r : Byte) : serveOrder [.step r, .tick] = some [.step r, .tick] := if_neg (by simp)

theorem serveOrder_tick_step (r : Byte) : serveOrder [.tick, .step r] = some [.step r, .tick] := if_neg (by simp)

/-- Settles O52: both orders are served as the step and then the tick, and a reset is served alone. -/
theorem stepComesBeforeTickAndResetAlone : Obligations.StepComesBeforeTickAndResetAlone := by
  refine ⟨fun s r => ?_, fun s ops h => ?_⟩
  · rw [performTogether_of_serveOrder (serveOrder_step_tick r), performTogether_of_serveOrder (serveOrder_tick_step r)]
    refine ⟨rfl, (nextOf_performAll_cons ..).trans ?_⟩
    simp only [performAll_singleton, perform]
  · rw [performTogether_of_serveOrder (serveOrder_of_reset_mem h), performAll_singleton]

end Sys2Proof.Machine
end
